-- ==== Sys2Proof/Word.lean ====
section
/-! DEFINITION. The widths of the machine's quantities (spec 00_scope R6, R11; 30_encoding R77). -/

namespace Sys2Proof

/-- A general register, a timer, a byte of memory: 8 bits (R6 `XLEN`, `TIMER_BITS`). -/
abbrev Byte := BitVec 8

/-- The program counter, a stack slot, an instruction word: 16 bits (R6 `PC_BITS`, `STACK_SLOT_BITS`, `ILEN`). -/
abbrev Word := BitVec 16

/-- The index register and the `nnn` field: 12 bits (R6 `I_BITS`; R77). -/
abbrev Addr := BitVec 12

/-- The `n` field: 4 bits (R77). -/
abbrev Nibble := BitVec 4

/-- The number of a general register V0 to VF (R21), also a stack slot's number (R30). -/
abbrev Reg := Fin 16

/-- The flag register VF is general register 15 (R23). -/
abbrev regVF : Reg := 15

end Sys2Proof
end

