-- ==== Sys2Proof/Config.lean ====
section
/-! DEFINITION. What an implementation fixes: the fixed parameters of spec 00_scope R6, the type of the open
parameters of R7, and the one free value, the random byte of `Cxkk` (42_load_immediate_random R123). The values the
spec decides for the open parameters stand in Machine/Defaults.lean. The machine takes them as an argument: an operation
that depends on one has a last argument `cfg`, by default the spec's values, and the meanings, the reset state, the step
and the transactions have a form `…With cfg` for every value of them (Machine/Parameters.lean). -/

namespace Sys2Proof

/-! ### Fixed parameters (R6): constants of the hardware -/

/-- `MEM_SIZE` (R6). -/
@[simp] abbrev memSize : Nat := 4096
/-- `PROGRAM_ORIGIN` and `PC_RESET` (R6, R41). -/
@[simp] abbrev programOrigin : Nat := 0x200
/-- `LOAD_MAX` (R6, R234). -/
@[simp] abbrev loadMax : Nat := 3584
/-- `FONT_SIZE` (R6): 16 glyphs of 5 bytes. -/
@[simp] abbrev fontSize : Nat := 80
/-- `GLYPH_BYTES` (R6). -/
@[simp] abbrev glyphBytes : Nat := 5
/-- `DISP_W` (R6). -/
@[simp] abbrev dispW : Nat := 64
/-- `DISP_H` (R6). -/
@[simp] abbrev dispH : Nat := 32
/-- `NKEYS` (R6). -/
@[simp] abbrev nKeys : Nat := 16
/-- One more than `KEYWAIT_LAST` (R6): the key-wait scans keys 0 to 14. -/
@[simp] abbrev keyWaitCount : Nat := 15

/-! ### Open parameters (R7) -/

/-- The two readings of the word `Annn` (R7 `ANNN`, R122, decision D7). -/
inductive AnnnMeaning where
  /-- `I <- nnn` (the spec's default). -/
  | loadIndex
  /-- The word is illegal and halts the CPU. -/
  | illegal
  deriving DecidableEq, Repr

/-- The two treatments of `00EE` with `SP = 0` (R7 `RET_UNDERFLOW`, decision D5). -/
inductive RetUnderflow where
  /-- `SP` wraps from 0 to 15 (the spec's default, R103). -/
  | wrap
  /-- The alternative D5 names: treat as unspecified and refuse. -/
  | refuse
  deriving DecidableEq, Repr

/-- The open parameters of R7, less `rnd`, which is a draw and not a setting. -/
structure Config where
  /-- `FONT`: the 80 font bytes, from address 0x000 (R62, D13). -/
  font : Vector Byte fontSize
  /-- `RESET_V` (D1). -/
  resetV : Vector Byte 16
  /-- `RESET_I` (D2). -/
  resetI : Addr
  /-- `RESET_SP` (D3). -/
  resetSp : Reg
  /-- `RESET_STACK` (D3). -/
  resetStack : Vector Word 16
  /-- `RESET_DT` (D4). -/
  resetDt : Byte
  /-- `RESET_ST` (D4). -/
  resetSt : Byte
  /-- `SUB_EQ_FLAG`: VF after `8xy5` and `8xy7` on equal operands (D10). -/
  subEqFlag : Bool
  /-- `ANNN` (D7). -/
  annn : AnnnMeaning
  /-- `RET_UNDERFLOW` (D5). -/
  retUnderflow : RetUnderflow
  /-- `PC_GUARD`: the smallest PC at which STEP does nothing (D6). -/
  pcGuard : Nat
  deriving DecidableEq, Repr

/-- The byte the `k`-th execution of `Cxkk` draws: a FREE VALUE with no body, so that a claim holds for every draw
(R123: "a free input of the step, drawn anew for every execution of `Cxkk`, under no law"; log 1). -/
opaque Config.rnd : Nat → Byte

end Sys2Proof
end

