-- ==== Sys2Proof/Machine/Defaults.lean ====
section
/-! DEFINITION. The configuration of the modelled machine: each open parameter of spec 00_scope R7 at the default the
spec decides (logs 2 to 8, 11 and 14). -/

namespace Sys2Proof.Machine

/-- The 16 glyphs of 5 bytes (20_memory R62; PRESUMED, log 14: "the conventional CHIP-8 hexadecimal font
[from general knowledge, not in source]"). -/
def fontGlyphs : List (List Byte) :=
  [ [0xF0, 0x90, 0x90, 0x90, 0xF0],
    [0x20, 0x60, 0x20, 0x20, 0x70],
    [0xF0, 0x10, 0xF0, 0x80, 0xF0],
    [0xF0, 0x10, 0xF0, 0x10, 0xF0],
    [0x90, 0x90, 0xF0, 0x10, 0x10],
    [0xF0, 0x80, 0xF0, 0x10, 0xF0],
    [0xF0, 0x80, 0xF0, 0x90, 0xF0],
    [0xF0, 0x10, 0x20, 0x40, 0x40],
    [0xF0, 0x90, 0xF0, 0x90, 0xF0],
    [0xF0, 0x90, 0xF0, 0x10, 0xF0],
    [0xF0, 0x90, 0xF0, 0x90, 0x90],
    [0xE0, 0x90, 0xE0, 0x90, 0xE0],
    [0xF0, 0x80, 0x80, 0x80, 0xF0],
    [0xE0, 0x90, 0x90, 0x90, 0xE0],
    [0xF0, 0x80, 0xF0, 0x80, 0xF0],
    [0xF0, 0x80, 0xF0, 0x80, 0x80] ]

/-- The defaults of R7 (decisions D1 to D7, D10, D13). -/
def config : Config :=
  { font := ⟨fontGlyphs.flatten.toArray, by decide⟩
    resetV := Vector.replicate 16 0
    resetI := 0
    resetSp := 0
    resetStack := Vector.replicate 16 0
    resetDt := 0
    resetSt := 0
    subEqFlag := false
    annn := .loadIndex
    retUnderflow := .wrap
    pcGuard := 0x1000 }

end Sys2Proof.Machine
end

