-- ==== Sys2Proof/Syntax.lean ====
section
/-! DEFINITION. The instruction set as syntax: one constructor per row of spec/opcode_table.json, in the order of
30_encoding R83. -/

namespace Sys2Proof

/-- The 36 rows of R83. Register operands are `x` and `y`, immediates `kk`, `nnn` and `n` (R77). -/
inductive Instr where
  /-- `00E0` CLS (R156). -/
  | cls
  /-- `00EE` RET (R103). -/
  | ret
  /-- `0000` NOP (R101). -/
  | nop
  /-- `0nnn` SYS, any `nnn` but 0x000, 0x0E0, 0x0EE (R102). -/
  | sys (nnn : Addr)
  /-- `1nnn` JP (R104). -/
  | jp (nnn : Addr)
  /-- `2nnn` CALL (R105). -/
  | call (nnn : Addr)
  /-- `3xkk` SE Vx, kk (R110). -/
  | seImm (x : Reg) (kk : Byte)
  /-- `4xkk` SNE Vx, kk (R111). -/
  | sneImm (x : Reg) (kk : Byte)
  /-- `5xy0` SE Vx, Vy (R112). -/
  | seReg (x y : Reg)
  /-- `6xkk` LD Vx, kk (R120). -/
  | ldImm (x : Reg) (kk : Byte)
  /-- `7xkk` ADD Vx, kk (R121). -/
  | addImm (x : Reg) (kk : Byte)
  /-- `8xy0` LD Vx, Vy (R130). -/
  | ldReg (x y : Reg)
  /-- `8xy1` OR Vx, Vy (R131). -/
  | orReg (x y : Reg)
  /-- `8xy2` AND Vx, Vy (R132). -/
  | andReg (x y : Reg)
  /-- `8xy3` XOR Vx, Vy (R133). -/
  | xorReg (x y : Reg)
  /-- `8xy4` ADD Vx, Vy (R134). -/
  | addReg (x y : Reg)
  /-- `8xy5` SUB Vx, Vy (R135). -/
  | subReg (x y : Reg)
  /-- `8xy6` SHR Vx; `y` is encoded but ignored (R136). -/
  | shr (x y : Reg)
  /-- `8xy7` SUBN Vx, Vy (R137). -/
  | subnReg (x y : Reg)
  /-- `8xyE` SHL Vx; `y` is encoded but ignored (R138). -/
  | shl (x y : Reg)
  /-- `9xy0` SNE Vx, Vy (R113). -/
  | sneReg (x y : Reg)
  /-- `Annn` LD I, nnn (R122). -/
  | ldI (nnn : Addr)
  /-- `Bnnn` JP V0, nnn (R106). -/
  | jpV0 (nnn : Addr)
  /-- `Cxkk` RND Vx, kk (R123). -/
  | rnd (x : Reg) (kk : Byte)
  /-- `Dxyn` DRW Vx, Vy, n (R157). -/
  | drw (x y : Reg) (n : Nibble)
  /-- `Ex9E` SKP Vx (R164). -/
  | skp (x : Reg)
  /-- `ExA1` SKNP Vx (R165). -/
  | sknp (x : Reg)
  /-- `Fx07` LD Vx, DT (R171). -/
  | ldVxDt (x : Reg)
  /-- `Fx0A` LD Vx, K (R166). -/
  | ldVxK (x : Reg)
  /-- `Fx15` LD DT, Vx (R172). -/
  | ldDtVx (x : Reg)
  /-- `Fx18` LD ST, Vx (R173). -/
  | ldStVx (x : Reg)
  /-- `Fx1E` ADD I, Vx (R180). -/
  | addI (x : Reg)
  /-- `Fx29` LD F, Vx (R181). -/
  | ldF (x : Reg)
  /-- `Fx33` LD B, Vx (R182). -/
  | ldB (x : Reg)
  /-- `Fx55` LD [I], Vx (R184). -/
  | storeRegs (x : Reg)
  /-- `Fx65` LD Vx, [I] (R185). -/
  | loadRegs (x : Reg)
  deriving DecidableEq, Repr

end Sys2Proof
end

