-- ==== Sys2Proof/WellFormed.lean ====
section
/-! DEFINITION. Which instruction terms are instructions of the machine. The field types bound every operand; what is
left to check is the exclusion list of `0nnn` and the parameter `ANNN` (30_encoding R83, R85; 42 R122). -/

namespace Sys2Proof

/-- `nnn` of `SYS nnn` is none of the three words that decode first (R83 row 4, conflict C4). -/
def sysOperandOk (nnn : Addr) : Bool :=
  nnn != 0x000 && nnn != 0x0E0 && nnn != 0x0EE

/-- Well-formed under a reading of `Annn` (R7 `ANNN`): `LD I, nnn` exists only where `Annn` is `loadIndex`. -/
def Instr.wfWith (annn : AnnnMeaning) : Instr → Bool
  | .sys nnn => sysOperandOk nnn
  | .ldI _ => annn == .loadIndex
  | .cls | .ret | .nop | .jp _ | .call _ | .jpV0 _ => true
  | .seImm _ _ | .sneImm _ _ | .seReg _ _ | .sneReg _ _ => true
  | .ldImm _ _ | .addImm _ _ | .rnd _ _ | .drw _ _ _ => true
  | .ldReg _ _ | .orReg _ _ | .andReg _ _ | .xorReg _ _ | .addReg _ _ => true
  | .subReg _ _ | .shr _ _ | .subnReg _ _ | .shl _ _ => true
  | .skp _ | .sknp _ | .ldVxDt _ | .ldVxK _ | .ldDtVx _ | .ldStVx _ => true
  | .addI _ | .ldF _ | .ldB _ | .storeRegs _ | .loadRegs _ => true

/-- Well-formed on the modelled machine. -/
def Instr.wf (i : Instr) : Bool := i.wfWith Machine.config.annn

end Sys2Proof
end

