-- ==== Sys2Proof/Decode.lean ====
section
/-! DEFINITION. Decoding (spec 30_encoding R75 to R84): total on any bytes, rejecting by name; the opcode table of R83
as rows of mask and match; the encoder, written from the same table. -/

namespace Sys2Proof

/-- Why no instruction is read. -/
inductive DecodeError where
  /-- Fewer than two bytes are left (every instruction is one 16-bit word, R75). -/
  | truncated
  /-- The word matches no row of R83: it is illegal (R84); executing it halts the CPU (60_exceptions R201). -/
  | illegalWord (op : Word)
  deriving DecidableEq, Repr

/-! ### Fields (R77) -/

/-- The top nibble `op[15:12]`, the group. -/
def opGroup (op : Word) : Nibble := op.extractLsb' 12 4
/-- `x = op[11:8]`. -/
def opX (op : Word) : Reg := Fin.ofNat 16 (op.extractLsb' 8 4).toNat
/-- `y = op[7:4]`. -/
def opY (op : Word) : Reg := Fin.ofNat 16 (op.extractLsb' 4 4).toNat
/-- `n = op[3:0]`. -/
def opN (op : Word) : Nibble := op.extractLsb' 0 4
/-- `kk = op[7:0]`. -/
def opKk (op : Word) : Byte := op.extractLsb' 0 8
/-- `nnn = op[11:0]`. -/
def opNnn (op : Word) : Addr := op.extractLsb' 0 12

/-! ### Decode by group (R80, the `case` form; strict in every fixed nibble, R81) -/

/-- Group 0: the three fixed words first, then `0nnn` (R80, R85). -/
def decodeGroup0 (op : Word) : Instr :=
  if op = 0x00E0 then .cls
  else if op = 0x00EE then .ret
  else if op = 0x0000 then .nop
  else .sys (opNnn op)

/-- Group 8: the sub-opcode is the low nibble (R80, R81, R82). -/
def decodeGroup8 (op : Word) : Except DecodeError Instr :=
  let x := opX op
  let y := opY op
  match (opN op).toNat with
  | 0x0 => .ok (.ldReg x y)
  | 0x1 => .ok (.orReg x y)
  | 0x2 => .ok (.andReg x y)
  | 0x3 => .ok (.xorReg x y)
  | 0x4 => .ok (.addReg x y)
  | 0x5 => .ok (.subReg x y)
  | 0x6 => .ok (.shr x y)
  | 0x7 => .ok (.subnReg x y)
  | 0xE => .ok (.shl x y)
  | _ => .error (.illegalWord op)

/-- Group E: the sub-opcode is the low byte (R80, R81). -/
def decodeGroupE (op : Word) : Except DecodeError Instr :=
  if opKk op = 0x9E then .ok (.skp (opX op))
  else if opKk op = 0xA1 then .ok (.sknp (opX op))
  else .error (.illegalWord op)

/-- Group F: the sub-opcode is the low byte (R80, R81). -/
def decodeGroupF (op : Word) : Except DecodeError Instr :=
  let x := opX op
  if opKk op = 0x07 then .ok (.ldVxDt x)
  else if opKk op = 0x0A then .ok (.ldVxK x)
  else if opKk op = 0x15 then .ok (.ldDtVx x)
  else if opKk op = 0x18 then .ok (.ldStVx x)
  else if opKk op = 0x1E then .ok (.addI x)
  else if opKk op = 0x29 then .ok (.ldF x)
  else if opKk op = 0x33 then .ok (.ldB x)
  else if opKk op = 0x55 then .ok (.storeRegs x)
  else if opKk op = 0x65 then .ok (.loadRegs x)
  else .error (.illegalWord op)

/-- Decode one word under a reading of `Annn` (R80; R7 `ANNN`). -/
def decodeWordWith (annn : AnnnMeaning) (op : Word) : Except DecodeError Instr :=
  match (opGroup op).toNat with
  | 0x0 => .ok (decodeGroup0 op)
  | 0x1 => .ok (.jp (opNnn op))
  | 0x2 => .ok (.call (opNnn op))
  | 0x3 => .ok (.seImm (opX op) (opKk op))
  | 0x4 => .ok (.sneImm (opX op) (opKk op))
  | 0x5 => if opN op = 0 then .ok (.seReg (opX op) (opY op)) else .error (.illegalWord op)
  | 0x6 => .ok (.ldImm (opX op) (opKk op))
  | 0x7 => .ok (.addImm (opX op) (opKk op))
  | 0x8 => decodeGroup8 op
  | 0x9 => if opN op = 0 then .ok (.sneReg (opX op) (opY op)) else .error (.illegalWord op)
  | 0xA => if annn = .loadIndex then .ok (.ldI (opNnn op)) else .error (.illegalWord op)
  | 0xB => .ok (.jpV0 (opNnn op))
  | 0xC => .ok (.rnd (opX op) (opKk op))
  | 0xD => .ok (.drw (opX op) (opY op) (opN op))
  | 0xE => decodeGroupE op
  | 0xF => decodeGroupF op
  | _ => .error (.illegalWord op)

/-- Decode one word on the modelled machine. -/
def decodeWord (op : Word) : Except DecodeError Instr := decodeWordWith Machine.config.annn op

/-- Decode the first instruction of a byte sequence, high byte first (R75, 20_memory R55), with the rest. -/
def decode : List Byte → Except DecodeError (Instr × List Byte)
  | hi :: lo :: rest =>
    match decodeWord (hi ++ lo) with
    | .ok i => .ok (i, rest)
    | .error e => .error e
  | [_] => .error .truncated
  | [] => .error .truncated

/-! ### The opcode table (R83) -/

/-- One row of R83: a word matches when `op & mask = value` (R80). -/
structure OpRow where
  mask : Word
  value : Word
  build : Word → Instr

/-- Does the word match the row (R80)? -/
def OpRow.hits (r : OpRow) (op : Word) : Bool := op &&& r.mask == r.value

/-- Rows 1 to 11 of R83. -/
def opRowsLow : List OpRow :=
  [ ⟨0xFFFF, 0x00E0, fun _ => .cls⟩,
    ⟨0xFFFF, 0x00EE, fun _ => .ret⟩,
    ⟨0xFFFF, 0x0000, fun _ => .nop⟩,
    ⟨0xF000, 0x0000, fun op => .sys (opNnn op)⟩,
    ⟨0xF000, 0x1000, fun op => .jp (opNnn op)⟩,
    ⟨0xF000, 0x2000, fun op => .call (opNnn op)⟩,
    ⟨0xF000, 0x3000, fun op => .seImm (opX op) (opKk op)⟩,
    ⟨0xF000, 0x4000, fun op => .sneImm (opX op) (opKk op)⟩,
    ⟨0xF00F, 0x5000, fun op => .seReg (opX op) (opY op)⟩,
    ⟨0xF000, 0x6000, fun op => .ldImm (opX op) (opKk op)⟩,
    ⟨0xF000, 0x7000, fun op => .addImm (opX op) (opKk op)⟩ ]

/-- Rows 12 to 21 of R83. -/
def opRowsAlu : List OpRow :=
  [ ⟨0xF00F, 0x8000, fun op => .ldReg (opX op) (opY op)⟩,
    ⟨0xF00F, 0x8001, fun op => .orReg (opX op) (opY op)⟩,
    ⟨0xF00F, 0x8002, fun op => .andReg (opX op) (opY op)⟩,
    ⟨0xF00F, 0x8003, fun op => .xorReg (opX op) (opY op)⟩,
    ⟨0xF00F, 0x8004, fun op => .addReg (opX op) (opY op)⟩,
    ⟨0xF00F, 0x8005, fun op => .subReg (opX op) (opY op)⟩,
    ⟨0xF00F, 0x8006, fun op => .shr (opX op) (opY op)⟩,
    ⟨0xF00F, 0x8007, fun op => .subnReg (opX op) (opY op)⟩,
    ⟨0xF00F, 0x800E, fun op => .shl (opX op) (opY op)⟩,
    ⟨0xF00F, 0x9000, fun op => .sneReg (opX op) (opY op)⟩ ]

/-- Row 22 of R83, removed where `ANNN = illegal` (R122 and the note of opcode_table.json). -/
def opRowsIndex (annn : AnnnMeaning) : List OpRow :=
  match annn with
  | .loadIndex => [⟨0xF000, 0xA000, fun op => .ldI (opNnn op)⟩]
  | .illegal => []

/-- Rows 23 to 36 of R83. -/
def opRowsHigh : List OpRow :=
  [ ⟨0xF000, 0xB000, fun op => .jpV0 (opNnn op)⟩,
    ⟨0xF000, 0xC000, fun op => .rnd (opX op) (opKk op)⟩,
    ⟨0xF000, 0xD000, fun op => .drw (opX op) (opY op) (opN op)⟩,
    ⟨0xF0FF, 0xE09E, fun op => .skp (opX op)⟩,
    ⟨0xF0FF, 0xE0A1, fun op => .sknp (opX op)⟩,
    ⟨0xF0FF, 0xF007, fun op => .ldVxDt (opX op)⟩,
    ⟨0xF0FF, 0xF00A, fun op => .ldVxK (opX op)⟩,
    ⟨0xF0FF, 0xF015, fun op => .ldDtVx (opX op)⟩,
    ⟨0xF0FF, 0xF018, fun op => .ldStVx (opX op)⟩,
    ⟨0xF0FF, 0xF01E, fun op => .addI (opX op)⟩,
    ⟨0xF0FF, 0xF029, fun op => .ldF (opX op)⟩,
    ⟨0xF0FF, 0xF033, fun op => .ldB (opX op)⟩,
    ⟨0xF0FF, 0xF055, fun op => .storeRegs (opX op)⟩,
    ⟨0xF0FF, 0xF065, fun op => .loadRegs (opX op)⟩ ]

/-- The complete opcode list of R83, in decode order. -/
def opcodeTable (annn : AnnnMeaning) : List OpRow :=
  opRowsLow ++ opRowsAlu ++ opRowsIndex annn ++ opRowsHigh

/-- Decode by table: "take the first row … whose pattern matches" (R80); no row, an illegal word (R84). -/
def decodeByTable (annn : AnnnMeaning) (op : Word) : Except DecodeError Instr :=
  match (opcodeTable annn).find? (fun r => r.hits op) with
  | some r => .ok (r.build op)
  | none => .error (.illegalWord op)

/-! ### The encoder (R76: one nibble a character, most significant first) -/

/-- A register number as the 4-bit field `x` or `y` (R77). -/
def regField (r : Reg) : Nibble := BitVec.ofNat 4 r.val

/-- Format NNN: `hnnn`. -/
def encNNN (g : Nibble) (nnn : Addr) : Word := g ++ nnn
/-- Format XKK: `hxkk`; also format X, whose low byte is the sub-opcode. -/
def encXKK (g : Nibble) (x : Reg) (kk : Byte) : Word := g ++ regField x ++ kk
/-- Format XYN: `hxyn`; also format XY, whose low nibble is the sub-opcode. -/
def encXYN (g : Nibble) (x y : Reg) (n : Nibble) : Word := g ++ regField x ++ regField y ++ n

/-- The word of an instruction (R76, R83). -/
def encode : Instr → Word
  | .cls => 0x00E0
  | .ret => 0x00EE
  | .nop => 0x0000
  | .sys nnn => encNNN 0x0 nnn
  | .jp nnn => encNNN 0x1 nnn
  | .call nnn => encNNN 0x2 nnn
  | .seImm x kk => encXKK 0x3 x kk
  | .sneImm x kk => encXKK 0x4 x kk
  | .seReg x y => encXYN 0x5 x y 0x0
  | .ldImm x kk => encXKK 0x6 x kk
  | .addImm x kk => encXKK 0x7 x kk
  | .ldReg x y => encXYN 0x8 x y 0x0
  | .orReg x y => encXYN 0x8 x y 0x1
  | .andReg x y => encXYN 0x8 x y 0x2
  | .xorReg x y => encXYN 0x8 x y 0x3
  | .addReg x y => encXYN 0x8 x y 0x4
  | .subReg x y => encXYN 0x8 x y 0x5
  | .shr x y => encXYN 0x8 x y 0x6
  | .subnReg x y => encXYN 0x8 x y 0x7
  | .shl x y => encXYN 0x8 x y 0xE
  | .sneReg x y => encXYN 0x9 x y 0x0
  | .ldI nnn => encNNN 0xA nnn
  | .jpV0 nnn => encNNN 0xB nnn
  | .rnd x kk => encXKK 0xC x kk
  | .drw x y n => encXYN 0xD x y n
  | .skp x => encXKK 0xE x 0x9E
  | .sknp x => encXKK 0xE x 0xA1
  | .ldVxDt x => encXKK 0xF x 0x07
  | .ldVxK x => encXKK 0xF x 0x0A
  | .ldDtVx x => encXKK 0xF x 0x15
  | .ldStVx x => encXKK 0xF x 0x18
  | .addI x => encXKK 0xF x 0x1E
  | .ldF x => encXKK 0xF x 0x29
  | .ldB x => encXKK 0xF x 0x33
  | .storeRegs x => encXKK 0xF x 0x55
  | .loadRegs x => encXKK 0xF x 0x65

/-- The bytes of an instruction in memory order, high byte first (20_memory R55). -/
def encodeBytes (i : Instr) : List Byte :=
  [(encode i).extractLsb' 8 8, (encode i).extractLsb' 0 8]

/-- The top nibble each row of R83 fixes. -/
def Instr.group : Instr → Nibble
  | .cls | .ret | .nop | .sys _ => 0x0
  | .jp _ => 0x1
  | .call _ => 0x2
  | .seImm _ _ => 0x3
  | .sneImm _ _ => 0x4
  | .seReg _ _ => 0x5
  | .ldImm _ _ => 0x6
  | .addImm _ _ => 0x7
  | .ldReg _ _ | .orReg _ _ | .andReg _ _ | .xorReg _ _ | .addReg _ _ => 0x8
  | .subReg _ _ | .shr _ _ | .subnReg _ _ | .shl _ _ => 0x8
  | .sneReg _ _ => 0x9
  | .ldI _ => 0xA
  | .jpV0 _ => 0xB
  | .rnd _ _ => 0xC
  | .drw _ _ _ => 0xD
  | .skp _ | .sknp _ => 0xE
  | .ldVxDt _ | .ldVxK _ | .ldDtVx _ | .ldStVx _ => 0xF
  | .addI _ | .ldF _ | .ldB _ | .storeRegs _ | .loadRegs _ => 0xF

/-! ### The host's word interface -/

/-- The instruction word an `nbits`-wide opcode-table row's bits stand for: bit 0 the least significant bit, every bit
above `nbits` zero (log 30). -/
def tableWord (nbits w : Nat) : Word := BitVec.ofNat 16 (w % 2 ^ min nbits 16)

/-- That word as the hardware stores it, high byte at the lower address (20_memory R55). -/
def tableBytes (nbits w : Nat) : List Byte :=
  [(tableWord nbits w).extractLsb' 8 8, (tableWord nbits w).extractLsb' 0 8]

/-- The instruction the decoder reads from a table row's bits. -/
def decodeTableWord (nbits w : Nat) : Option Instr :=
  match decode (tableBytes nbits w) with
  | .ok (i, _) => some i
  | .error _ => none

end Sys2Proof
end

