-- ==== Sys2Proof/Machine/State.lean ====
section
/-! DEFINITION. The state of the core, `Arch`: exactly the pieces of spec 10_state R20. The state a step takes, `State`:
the core's state beside the place in the input of random bytes (log 1). Plain data throughout. -/

namespace Sys2Proof.Machine

/-- Memory as (address, byte) pairs, addresses strictly rising, no entry equal to what an unlisted address reads as
(`Memory.wf`); an unlisted address reads as the reset content (20_memory R50, R61). -/
abbrev Memory := List Host.Cell

/-- The display plane: 32 rows of 64 one-bit pixels, `plane[y][x]`, true = lit (R38, 44_display R150). -/
abbrev Plane := Vector (Vector Bool 64) 32

/-- The whole state of the core: exactly the fields of R20 and nothing else. -/
structure Arch where
  /-- `V[0..15]`, the general registers; V15 is VF (R21, R23). -/
  v : Vector Byte 16
  /-- `I`, the index register, 12 significant bits (R29). -/
  i : Addr
  /-- `PC`, the program counter (R25). Inside a meaning it is already the instruction's address plus 2 (R100). -/
  pc : Word
  /-- `STACK[0..15]`, the call-stack slots (R30). -/
  stack : Vector Word 16
  /-- `SP`, the stack pointer, 0 to 15 (R30). -/
  sp : Reg
  /-- `DT`, the delay timer (R31). -/
  dt : Byte
  /-- `ST`, the sound timer (R32). -/
  st : Byte
  /-- `HALTED`, the run state (R33). -/
  halted : Bool
  /-- `MEM[0..4095]` (R36). -/
  mem : Memory
  /-- `KEY[0..15]`, true = pressed (R37). -/
  key : Vector Bool 16
  /-- `FB[0..31][0..63]` (R38). -/
  fb : Plane
  deriving DecidableEq, Repr

/-- What a step takes: the state of the core, and no state of the core but the model's own, which byte of the random
INPUT the next `Cxkk` is given. The byte is an input of the step and comes from no stored state (R39(b), 42 R123); the
host's step has no argument for an input, so its place stands here (log 1). -/
structure State extends Arch where
  /-- How many bytes of the random input have been used. -/
  draws : Nat
  deriving DecidableEq, Repr

/-- Why a step stops with a fault: NEVER. The hardware has no trap mechanism (60_exceptions R200, R205): an illegal
word and a program counter out of range have their effects as next states (R201, R203). No constructor, so no
meaning can raise one; the type is the host's interface's. -/
inductive Fault where
  deriving DecidableEq, Repr

/-- Why something is refused. -/
inductive Refusal where
  /-- Raised by no arm of `exec` now: every instruction has its meaning. Safe. -/
  | notModelled (mnemonic : String)
  /-- Raised by the LOAD transaction for more than 3584 bytes, which the spec gives no meaning (70 R234, D15;
  log 15). Not an instruction. Safe. -/
  | loadTooLong
  /-- Raised by the SETKEY transaction for an index over 15, which the spec gives no meaning (45 R161, D17; log 17).
  Not an instruction. Safe. -/
  | keyIndexOutOfRange
  /-- Raised by `RET` with `SP = 0` on a machine configured with `RET_UNDERFLOW = refuse`, the alternative D5 names
  (00 R7). The modelled machine wraps (R103), so nothing raises it there; log 6. Safe. -/
  | retUnderflow
  deriving DecidableEq, Repr

/-- The machine right after RESET at session start (R41 to R48; 70 R230 to R232), for every value of the open parameters
(R7). Memory lists nothing: every byte reads as its reset content, FONT below 0x050 and 0x00 above (R42). -/
def State.resetWith (cfg : Config) : State :=
  { v := cfg.resetV
    i := cfg.resetI
    pc := BitVec.ofNat 16 programOrigin
    stack := cfg.resetStack
    sp := cfg.resetSp
    dt := cfg.resetDt
    st := cfg.resetSt
    halted := false
    mem := []
    key := Vector.replicate 16 false
    fb := Vector.replicate 32 (Vector.replicate 64 false)
    draws := 0 }

/-- The modelled machine right after RESET: the parameters at the spec's defaults. -/
def State.reset : State := State.resetWith config

end Sys2Proof.Machine
end

