-- ==== Sys2Proof/Machine/Ops.lean ====
section
/-! DEFINITION. The named operations over registers, program counter, stack, memory, display and keypad, the halt on an
illegal word, and the fetch. Meanings are written over these. -/

namespace Sys2Proof.Machine

/-! ### General registers (10_state R21) -/

/-- Read `V[r]`. -/
def getV (s : State) (r : Reg) : Byte := s.v[r.val]

/-- `V[r] <- b`. -/
def setV (s : State) (r : Reg) (b : Byte) : State := { s with v := s.v.set r.val b }

/-! ### Special registers (10_state R29 to R32) -/

/-- `I <- a` (R29). -/
def setI (s : State) (a : Addr) : State := { s with i := a }

/-- `DT <- b` (R31). -/
def setDt (s : State) (b : Byte) : State := { s with dt := b }

/-- `ST <- b` (R32). -/
def setSt (s : State) (b : Byte) : State := { s with st := b }

/-! ### Program counter (10_state R25 to R28) -/

/-- `PC <- w`; never reduced modulo 4096 (R28). -/
def setPc (s : State) (w : Word) : State := { s with pc := w }

/-- The advance of STEP, before decode: `PC <- PC0 + 2` (40 R100). -/
def advancePc (s : State) : State := setPc s (s.pc + 2)

/-- The skip: `PC <- PC + 2` where the condition holds (41_skips R114). -/
def skipIf (c : Bool) (s : State) : State := if c then setPc s (s.pc + 2) else s

/-- The key-wait's rewind: `PC <- PC - 2`, back to `PC0` (45 R166). -/
def rewindPc (s : State) : State := setPc s (s.pc - 2)

/-- The stalled condition, computed from PC (60 R203; R7 `PC_GUARD`). -/
def stalled (s : State) (cfg : Config := config) : Bool := cfg.pcGuard ≤ s.pc.toNat

/-! ### Call stack (10_state R30; 40 R103, R105) -/

/-- Push PC: `SP <- (SP + 1) mod 16`, then `STACK[SP] <- PC` (R105). -/
def pushReturn (s : State) : State :=
  { s with sp := s.sp + 1, stack := s.stack.set (s.sp + 1).val s.pc }

/-- Pop into PC: `PC <- STACK[SP]`, then `SP <- (SP - 1) mod 16`; the slot keeps its value (R103). -/
def popReturn (s : State) : State :=
  { s with pc := s.stack[s.sp.val], sp := s.sp - 1 }

/-! ### The random draw (42 R123) -/

/-- One byte has been drawn: the next execution of `Cxkk` draws anew (log 1). -/
def nextDraw (s : State) : State := { s with draws := s.draws + 1 }

/-! ### Memory (20_memory R50 to R54) -/

/-- What an unlisted address reads as, the reset content: FONT below 0x050, 0x00 elsewhere (10_state R42, 20 R61). -/
def unlisted (a : Nat) (cfg : Config := config) : Byte := if h : a < fontSize then cfg.font[a] else 0

/-- The byte listed for an address, if any. -/
def memLookup : Memory → Nat → Option Byte
  | [], _ => none
  | (k, b) :: m, a => if k = a then some b else memLookup m a

/-- `MemRead(a, 1)`: any address is reduced modulo 4096 (R52, R53). -/
def memRead (m : Memory) (a : Nat) (cfg : Config := config) : Byte :=
  (memLookup m (a % memSize)).getD (unlisted (a % memSize) cfg)

/-- `MemRead(a, 2)`: high byte first, the second address reduced on its own (R53). -/
def memReadWord (m : Memory) (a : Nat) (cfg : Config := config) : Word := memRead m a cfg ++ memRead m (a + 1) cfg

/-- Put a byte at an address below 4096, keeping the canonical form: the value an unlisted address reads as is not
listed. -/
def memPut (m : Memory) (a : Nat) (b : Byte) (cfg : Config := config) : Memory :=
  match m with
  | [] => if b = unlisted a cfg then [] else [(a, b)]
  | (k, c) :: m =>
    if a < k then (if b = unlisted a cfg then (k, c) :: m else (a, b) :: (k, c) :: m)
    else if a = k then (if b = unlisted a cfg then m else (a, b) :: m)
    else (k, c) :: memPut m a b cfg

/-- `MemWrite(a, 1, b)` (R54). -/
def memWrite (m : Memory) (a : Nat) (b : Byte) (cfg : Config := config) : Memory := memPut m (a % memSize) b cfg

/-- Single-byte writes at consecutive addresses, each reduced on its own, ascending (R54, R59). -/
def memWriteBytes (m : Memory) (a : Nat) (bs : List Byte) (cfg : Config := config) : Memory :=
  match bs with
  | [] => m
  | b :: bs => memWriteBytes (memWrite m a b cfg) (a + 1) bs cfg

/-- The canonical form from an address on. -/
def memSortedFrom (lo : Nat) (m : Memory) (cfg : Config := config) : Bool :=
  match m with
  | [] => true
  | (k, b) :: m => lo ≤ k && k < memSize && b != unlisted k cfg && memSortedFrom (k + 1) m cfg

/-- The canonical form: addresses strictly rising and below 4096, no entry equal to what an unlisted address reads
as. -/
def Memory.wf (m : Memory) (cfg : Config := config) : Bool := memSortedFrom 0 m cfg

/-- Replace Memory. -/
def setMem (s : State) (m : Memory) : State := { s with mem := m }

/-- `V[k] <- MemRead(base + k, 1)` for `k = 0 .. n-1`, ascending (47 R185). -/
def loadRegsFrom (m : Memory) (base n : Nat) (v : Vector Byte 16) (cfg : Config := config) : Vector Byte 16 :=
  match n with
  | 0 => v
  | k + 1 => (loadRegsFrom m base k v cfg).setIfInBounds k (memRead m (base + k) cfg)

/-- Replace the register file. -/
def setRegs (s : State) (v : Vector Byte 16) : State := { s with v := v }

/-! ### Display engine (44_display R150 to R153, R157) -/

/-- `Pixel(x, y)`: the coordinates wrap (R152). -/
def pixel (fb : Plane) (x y : Nat) : Bool :=
  (fb[y % dispH]'(Nat.mod_lt y (by decide)))[x % dispW]'(Nat.mod_lt x (by decide))

/-- Replace the pixel at wrapped coordinates. -/
def putPixel (fb : Plane) (x y : Nat) (b : Bool) : Plane :=
  fb.set (y % dispH) ((fb[y % dispH]'(Nat.mod_lt y (by decide))).set (x % dispW) b (Nat.mod_lt x (by decide)))
    (Nat.mod_lt y (by decide))

/-- `Plot(x, y, b)`: exclusive-or at wrapped coordinates; the second component is the collision bit (R151). -/
def plot (fb : Plane) (x y : Nat) (b : Bool) : Plane × Bool :=
  (putPixel fb x y (pixel fb x y ^^ b), pixel fb x y && b)

/-- `Clear()`: every pixel off (R153). -/
def clearPlane : Plane := Vector.replicate 32 (Vector.replicate 64 false)

/-- Replace the plane. -/
def setFb (s : State) (fb : Plane) : State := { s with fb := fb }

/-- Plot bits `7, 6, …` of one sprite row at columns `x0, x0 + 1, …` (the first `k` of them), accumulating the
collision (R157, the inner loop). -/
def plotRow (row : Byte) (x0 y : Nat) : Nat → Plane × Bool → Plane × Bool
  | 0, acc => acc
  | j + 1, acc =>
    match plotRow row x0 y j acc with
    | (fb, hit) =>
      match plot fb (x0 + j) y (row.getLsbD (7 - j)) with
      | (fb', c) => (fb', hit || c)

/-- Draw the first `k` rows of the sprite at `base` (R157, the outer loop); row `i` is `MemRead(base + i, 1)`. -/
def drawRows (m : Memory) (base x0 y0 n : Nat) (acc : Plane × Bool) (cfg : Config := config) : Plane × Bool :=
  match n with
  | 0 => acc
  | i + 1 => plotRow (memRead m (base + i) cfg) x0 (y0 + i) 8 (drawRows m base x0 y0 i acc cfg)

/-! ### Keypad (45_keypad R162, R166) -/

/-- `Key(k)`: not pressed for any index over 15; the index is not masked (R162). -/
def keyAt (s : State) (k : Nat) : Bool := if h : k < 16 then s.key[k] else false

/-- The key-wait's scan: the first pressed key of 0 to 14; key 15 is not scanned (R166). -/
def firstKey (s : State) : Option Nat := (List.range keyWaitCount).find? (keyAt s)

/-! ### Exceptions (60_exceptions R201) -/

/-- `raise Halt(IllegalOpcode)`: `HALTED <- 1` and nothing else; PC stays advanced (R201). The one exception of the
machine; only RESET and LOAD return from it (R210), see `resetAll` and `load` in External.lean. -/
def raiseHalt (s : State) : State := { s with halted := true }

/-! ### Fetch (40 R100, 20 R55 to R57) -/

/-- The word STEP fetches: `MemRead(PC, 2)`. -/
def fetchWord (s : State) (cfg : Config := config) : Word := memReadWord s.mem s.pc.toNat cfg

/-- Store an instruction word where STEP fetches, high byte first (R55). -/
def placeWord (s : State) (op : Word) : State :=
  setMem s (memWriteBytes s.mem s.pc.toNat [op.extractLsb' 8 8, op.extractLsb' 0 8])

/-- What a fetch needs besides the word: a CPU that is neither halted nor stalled (log 25). A state that already is
keeps every field. -/
def readyToFetch (s : State) : State :=
  { s with
    halted := false
    pc := if stalled s then BitVec.ofNat 16 programOrigin else s.pc }

/-! ### The step cycle (40 R100) -/

/-- STEP over a way to execute a decoded instruction: nothing when halted, nothing when stalled; otherwise fetch, advance
PC by 2, decode, execute; an illegal word halts (R100, R201, R203, the checks in the order of R208). -/
def stepBy (run : Instr → State → Host.Outcome State Fault Refusal) (s : State) (cfg : Config := config) :
    Host.Outcome State Fault Refusal :=
  if s.halted then .next s
  else if stalled s cfg then .next s
  else
    match decodeWordWith cfg.annn (fetchWord s cfg) with
    | .ok i => run i (advancePc s)
    | .error _ => .next (raiseHalt (advancePc s))

end Sys2Proof.Machine
end

