-- ==== Sys2Proof/Machine/Flags.lean ====
section
/-! DEFINITION. Every flag computation of the spec: the value VF takes (10_state R23). -/

namespace Sys2Proof.Machine

/-- A flag as the byte VF receives: 0 or 1 (R23). -/
def flagByte (c : Bool) : Byte := if c then 1 else 0

/-- `V[15] <- c`, written after the result (R24, 43_alu R128). -/
def setFlag (s : State) (c : Bool) : State := setV s regVF (flagByte c)

/-- `8xy4`: 1 if `a + b > 255` (43 R134). -/
def carryFlag (a b : Byte) : Bool := a.toNat + b.toNat > 255

/-- `8xy5` and, operands exchanged, `8xy7`: 1 if `a > b`; on equal operands the parameter `SUB_EQ_FLAG`, by default 0
(43 R135, R137; conflict C1, decision D10). -/
def greaterFlag (eqFlag : Bool) (a b : Byte) : Bool := if a = b then eqFlag else a.toNat > b.toNat

/-- `8xy6`: old bit 0 (43 R136). -/
def lowBitFlag (a : Byte) : Bool := a.getLsbD 0

/-- `8xyE`: old bit 7 (43 R138). -/
def highBitFlag (a : Byte) : Bool := a.getLsbD 7

/-- `Fx1E`: 1 if the unmasked sum `I + V[x]` exceeds 0xFFF (47 R180). -/
def indexCarryFlag (i : Addr) (b : Byte) : Bool := i.toNat + b.toNat > 0xFFF

/-- Write a result and then the flag: the order of every flag-writing instruction with a register result
(43 R128). -/
def setResultAndFlag (s : State) (x : Reg) (r : Byte) (c : Bool) : State := setFlag (setV s x r) c

end Sys2Proof.Machine
end

