-- ==== Sys2Proof/Machine/Operands.lean ====
section
/-! DEFINITION. The operand forms of spec 30_encoding R78, 47_index_memory R183 and the values the operand rules
compute. -/

namespace Sys2Proof.Machine

/-- `zext_16(nnn)`: a 12-bit address immediate as a PC value (R78). -/
def targetOf (nnn : Addr) : Word := nnn.setWidth 16

/-- `zext_16(nnn) + zext_16(V[0])`, not reduced modulo 4096 (40 R106). -/
def targetPlusV0 (nnn : Addr) (s : State) : Word := nnn.setWidth 16 + (getV s 0).setWidth 16

/-- The one data addressing mode: base `I` plus a running index; Memory reduces the sum modulo 4096 (47 R183). -/
def effAddr (s : State) (k : Nat) : Nat := s.i.toNat + k

/-- `(V[x] & 0xF) * 5`: the address of a font glyph (47 R181). -/
def glyphAddr (b : Byte) : Addr := BitVec.ofNat 12 ((b &&& 0x0F).toNat * glyphBytes)

/-- The hundreds, tens and units digits of a byte, one a byte (47 R182). -/
def bcdDigits (b : Byte) : List Byte :=
  [BitVec.ofNat 8 (b.toNat / 100), BitVec.ofNat 8 (b.toNat / 10 % 10), BitVec.ofNat 8 (b.toNat % 10)]

/-- The values of V0 to Vx, V0 first (47 R184). -/
def regsUpTo (s : State) (x : Reg) : List Byte := s.v.toList.take (x.val + 1)

/-- `(I + V[x]) mod 4096` (47 R180). -/
def indexSum (s : State) (x : Reg) : Addr := s.i + (getV s x).setWidth 12

end Sys2Proof.Machine
end

