-- ==== Sys2Proof/Machine/Alu.lean ====
section
/-! DEFINITION. The register-register ALU, group 8 (spec 43_alu R128 to R138). Both operands are read first, the result
is written next and the flag last (R128, decision D9). -/

namespace Sys2Proof.Machine

/-- `8xy0` LD: `V[x] <- V[y]` (R130). -/
def execLdReg (x y : Reg) (s : State) : Host.Outcome State Fault Refusal := .next (setV s x (getV s y))

/-- `8xy1` OR; VF unchanged (R131, decision D26). -/
def execOrReg (x y : Reg) (s : State) : Host.Outcome State Fault Refusal :=
  .next (setV s x (getV s x ||| getV s y))

/-- `8xy2` AND; VF unchanged (R132, decision D26). -/
def execAndReg (x y : Reg) (s : State) : Host.Outcome State Fault Refusal :=
  .next (setV s x (getV s x &&& getV s y))

/-- `8xy3` XOR; VF unchanged (R133, decision D26). -/
def execXorReg (x y : Reg) (s : State) : Host.Outcome State Fault Refusal :=
  .next (setV s x (getV s x ^^^ getV s y))

/-- `8xy4` ADD, VF = carry (R134). -/
def execAddReg (x y : Reg) (s : State) : Host.Outcome State Fault Refusal :=
  .next (setResultAndFlag s x (getV s x + getV s y) (carryFlag (getV s x) (getV s y)))

/-- `8xy5` SUB: `V[x] - V[y]`, VF = `V[x] > V[y]`, under the parameter `SUB_EQ_FLAG` (R135, R7). -/
def execSubRegWith (cfg : Config) (x y : Reg) (s : State) : Host.Outcome State Fault Refusal :=
  .next (setResultAndFlag s x (getV s x - getV s y) (greaterFlag cfg.subEqFlag (getV s x) (getV s y)))

/-- `8xy5` on the modelled machine: VF = 0 on equal operands (decision D10). -/
def execSubReg (x y : Reg) (s : State) : Host.Outcome State Fault Refusal := execSubRegWith config x y s

/-- `8xy6` SHR: `V[x]` shifted in place, VF = old bit 0; `Vy` is neither read nor written (R136). -/
def execShr (x _y : Reg) (s : State) : Host.Outcome State Fault Refusal :=
  .next (setResultAndFlag s x (getV s x >>> 1) (lowBitFlag (getV s x)))

/-- `8xy7` SUBN: `V[y] - V[x]` into `V[x]`, VF = `V[y] > V[x]`, under the parameter `SUB_EQ_FLAG` (R137,
R7). -/
def execSubnRegWith (cfg : Config) (x y : Reg) (s : State) : Host.Outcome State Fault Refusal :=
  .next (setResultAndFlag s x (getV s y - getV s x) (greaterFlag cfg.subEqFlag (getV s y) (getV s x)))

/-- `8xy7` on the modelled machine: VF = 0 on equal operands (decision D10). -/
def execSubnReg (x y : Reg) (s : State) : Host.Outcome State Fault Refusal := execSubnRegWith config x y s

/-- `8xyE` SHL: `V[x]` shifted in place, VF = old bit 7; `Vy` is neither read nor written (R138). -/
def execShl (x _y : Reg) (s : State) : Host.Outcome State Fault Refusal :=
  .next (setResultAndFlag s x (getV s x <<< 1) (highBitFlag (getV s x)))

end Sys2Proof.Machine
end

