-- ==== Sys2Proof/Machine/Control.lean ====
section
/-! DEFINITION. No-operations and control transfer (spec 40_step_cycle_and_flow R101 to R106). -/

namespace Sys2Proof.Machine

/-- `0000` NOP: "a true no-op" (R101). -/
def execNop (s : State) : Host.Outcome State Fault Refusal := .next s

/-- `0nnn` SYS: "a no-effect system call"; `nnn` is ignored (R102). -/
def execSys (_nnn : Addr) (s : State) : Host.Outcome State Fault Refusal := .next s

/-- Return (R103) under the parameter `RET_UNDERFLOW` (R7). -/
def execRetWith (cfg : Config) (s : State) : Host.Outcome State Fault Refusal :=
  match cfg.retUnderflow with
  | .wrap => .next (popReturn s)
  | .refuse => if s.sp = 0 then .refused .retUnderflow else .next (popReturn s)

/-- `00EE` RET (R103); the modelled machine wraps SP from 0 to 15 (decision D5). -/
def execRet (s : State) : Host.Outcome State Fault Refusal := execRetWith config s

/-- `1nnn` JP: `PC <- nnn` (R104). -/
def execJp (nnn : Addr) (s : State) : Host.Outcome State Fault Refusal := .next (setPc s (targetOf nnn))

/-- `2nnn` CALL: push PC, then `PC <- nnn` (R105). -/
def execCall (nnn : Addr) (s : State) : Host.Outcome State Fault Refusal :=
  .next (setPc (pushReturn s) (targetOf nnn))

/-- `Bnnn` JP V0: `PC <- nnn + V0`, not masked (R106). -/
def execJpV0 (nnn : Addr) (s : State) : Host.Outcome State Fault Refusal :=
  .next (setPc s (targetPlusV0 nnn s))

end Sys2Proof.Machine
end

