-- ==== Sys2Proof/Machine/Display.lean ====
section
/-! DEFINITION. The two display instructions (spec 44_display R156, R157). -/

namespace Sys2Proof.Machine

/-- `00E0` CLS: every pixel off; VF is not written (R156). -/
def execCls (s : State) : Host.Outcome State Fault Refusal := .next (setFb s clearPlane)

/-- The sprite drawn on the plane of `s`, with the collision: `n` rows from `I`, at `(V[x], V[y])` read before any
write (R157, R158). -/
def drawSprite (x y : Reg) (n : Nibble) (s : State) (cfg : Config := config) : Plane × Bool :=
  drawRows s.mem (effAddr s 0) (getV s x).toNat (getV s y).toNat n.toNat (s.fb, false) cfg

/-- `Dxyn` DRW: draw, then VF = 1 if any plotted pixel collided, else 0 (R157, decision D25). -/
def execDrwWith (cfg : Config) (x y : Reg) (n : Nibble) (s : State) : Host.Outcome State Fault Refusal :=
  .next (setFlag (setFb s (drawSprite x y n s cfg).1) (drawSprite x y n s cfg).2)

/-- `Dxyn` on the modelled machine. -/
def execDrw (x y : Reg) (n : Nibble) (s : State) : Host.Outcome State Fault Refusal := execDrwWith config x y n s

end Sys2Proof.Machine
end

