-- ==== Sys2Proof/Machine/Immediate.lean ====
section
/-! DEFINITION. Immediate loads, immediate add, index load, random (spec 42_load_immediate_random R120 to R123). -/

namespace Sys2Proof.Machine

/-- `6xkk` LD: `V[x] <- kk` (R120). -/
def execLdImm (x : Reg) (kk : Byte) (s : State) : Host.Outcome State Fault Refusal := .next (setV s x kk)

/-- `7xkk` ADD: `V[x] <- (V[x] + kk) mod 256`; VF is not written (R121). -/
def execAddImm (x : Reg) (kk : Byte) (s : State) : Host.Outcome State Fault Refusal :=
  .next (setV s x (getV s x + kk))

/-- `Annn` LD I: `I <- nnn` (R122, decision D7). -/
def execLdI (nnn : Addr) (s : State) : Host.Outcome State Fault Refusal := .next (setI s nnn)

/-- `V[x] <- draw & kk` for a given draw (R123). -/
def randomAnd (draw : Byte) (x : Reg) (kk : Byte) (s : State) : State := setV s x (draw &&& kk)

/-- `Cxkk` RND: the draw is the free byte `Config.rnd s.draws`, a new one at each execution (R123, decision D14;
log 1). -/
def execRnd (x : Reg) (kk : Byte) (s : State) : Host.Outcome State Fault Refusal :=
  .next (randomAnd (Config.rnd s.draws) x kk (nextDraw s))

end Sys2Proof.Machine
end

