-- ==== Sys2Proof/Machine/IndexMemory.lean ====
section
/-! DEFINITION. Index arithmetic, font address, BCD store, register dump and load (spec 47_index_memory R180 to R186). -/

namespace Sys2Proof.Machine

/-- `Fx1E` ADD I, Vx: `V[x]` is read first, `I` written, VF last (R180, 10_state R24). -/
def execAddI (x : Reg) (s : State) : Host.Outcome State Fault Refusal :=
  .next (setFlag (setI s (indexSum s x)) (indexCarryFlag s.i (getV s x)))

/-- `Fx29` LD F, Vx: `I <- (V[x] & 0xF) * 5`; no memory is read (R181). -/
def execLdF (x : Reg) (s : State) : Host.Outcome State Fault Refusal := .next (setI s (glyphAddr (getV s x)))

/-- `Fx33` LD B, Vx: the three digits at `I`, `I + 1`, `I + 2` (R182). -/
def execLdBWith (cfg : Config) (x : Reg) (s : State) : Host.Outcome State Fault Refusal :=
  .next (setMem s (memWriteBytes s.mem (effAddr s 0) (bcdDigits (getV s x)) cfg))

/-- `Fx33` on the modelled machine. -/
def execLdB (x : Reg) (s : State) : Host.Outcome State Fault Refusal := execLdBWith config x s

/-- `Fx55` LD [I], Vx: V0 to Vx to memory from `I`; `I` unchanged (R184, R183). -/
def execStoreRegsWith (cfg : Config) (x : Reg) (s : State) : Host.Outcome State Fault Refusal :=
  .next (setMem s (memWriteBytes s.mem (effAddr s 0) (regsUpTo s x) cfg))

/-- `Fx55` on the modelled machine. -/
def execStoreRegs (x : Reg) (s : State) : Host.Outcome State Fault Refusal := execStoreRegsWith config x s

/-- `Fx65` LD Vx, [I]: V0 to Vx from memory from `I`; `I` unchanged (R185, R183). -/
def execLoadRegsWith (cfg : Config) (x : Reg) (s : State) : Host.Outcome State Fault Refusal :=
  .next (setRegs s (loadRegsFrom s.mem (effAddr s 0) (x.val + 1) s.v cfg))

/-- `Fx65` on the modelled machine. -/
def execLoadRegs (x : Reg) (s : State) : Host.Outcome State Fault Refusal := execLoadRegsWith config x s

end Sys2Proof.Machine
end

