-- ==== Sys2Proof/Machine/Keypad.lean ====
section
/-! DEFINITION. The keypad instructions (spec 45_keypad R164 to R167). -/

namespace Sys2Proof.Machine

/-- `Ex9E` SKP: skip if the key numbered by the whole byte `V[x]` is pressed (R164). -/
def execSkp (x : Reg) (s : State) : Host.Outcome State Fault Refusal :=
  .next (skipIf (keyAt s (getV s x).toNat) s)

/-- `ExA1` SKNP: skip if that key is not pressed (R165). -/
def execSknp (x : Reg) (s : State) : Host.Outcome State Fault Refusal :=
  .next (skipIf (!keyAt s (getV s x).toNat) s)

/-- `Fx0A` LD Vx, K, the key-wait: the lowest pressed key of 0 to 14 into `V[x]`, or PC back to this instruction
(R166, R167). -/
def execLdVxK (x : Reg) (s : State) : Host.Outcome State Fault Refusal :=
  match firstKey s with
  | some k => .next (setV s x (BitVec.ofNat 8 k))
  | none => .next (rewindPc s)

end Sys2Proof.Machine
end

