-- ==== Sys2Proof/Machine/Skips.lean ====
section
/-! DEFINITION. The register-compare skips (spec 41_skips R110 to R114). -/

namespace Sys2Proof.Machine

/-- `3xkk` SE: skip if `V[x] = kk` (R110). -/
def execSeImm (x : Reg) (kk : Byte) (s : State) : Host.Outcome State Fault Refusal :=
  .next (skipIf (getV s x == kk) s)

/-- `4xkk` SNE: skip if `V[x] != kk` (R111). -/
def execSneImm (x : Reg) (kk : Byte) (s : State) : Host.Outcome State Fault Refusal :=
  .next (skipIf (getV s x != kk) s)

/-- `5xy0` SE: skip if `V[x] = V[y]` (R112). -/
def execSeReg (x y : Reg) (s : State) : Host.Outcome State Fault Refusal :=
  .next (skipIf (getV s x == getV s y) s)

/-- `9xy0` SNE: skip if `V[x] != V[y]` (R113). -/
def execSneReg (x y : Reg) (s : State) : Host.Outcome State Fault Refusal :=
  .next (skipIf (getV s x != getV s y) s)

end Sys2Proof.Machine
end

