-- ==== Sys2Proof/Machine/Timers.lean ====
section
/-! DEFINITION. The timer instructions (spec 46_timers R171 to R173). TICK is in External.lean. -/

namespace Sys2Proof.Machine

/-- `Fx07` LD Vx, DT (R171). -/
def execLdVxDt (x : Reg) (s : State) : Host.Outcome State Fault Refusal := .next (setV s x s.dt)

/-- `Fx15` LD DT, Vx (R172). -/
def execLdDtVx (x : Reg) (s : State) : Host.Outcome State Fault Refusal := .next (setDt s (getV s x))

/-- `Fx18` LD ST, Vx (R173). -/
def execLdStVx (x : Reg) (s : State) : Host.Outcome State Fault Refusal := .next (setSt s (getV s x))

end Sys2Proof.Machine
end

