-- ==== Sys2Proof/Machine/Step.lean ====
section
/-! DEFINITION. The STEP transaction (spec 40_step_cycle_and_flow R100) and the host's way to place an instruction. -/

namespace Sys2Proof.Machine

/-- STEP on the modelled machine: the step cycle `stepBy` over `exec`. -/
def step (s : State) : Host.Outcome State Fault Refusal := stepBy exec s

/-- `s` with an opcode-table word stored where `step` fetches its next instruction. A state that is neither halted nor
stalled keeps every other field (log 25). -/
def State.withFetchWord (s : State) (nbits w : Nat) : State := placeWord (readyToFetch s) (tableWord nbits w)

end Sys2Proof.Machine
end

