-- ==== Sys2Proof/Machine/External.lean ====
section
/-! DEFINITION. What the agents outside the core do to it, one operation a transaction (spec 00_scope R8): RESET, LOAD,
TICK, SETKEY; and what they observe: SNAPSHOT, HALTED. STEP is in Step.lean. -/

namespace Sys2Proof.Machine

/-- `MemoryReset()`: every byte back to its reset content (70 R231). -/
def memoryReset (s : State) : State := { s with mem := [] }

/-- `CpuReset()` (70 R232). The draw counter is not the CPU's: a reset does not make random bytes repeat (log 1). -/
def cpuReset (s : State) (cfg : Config := config) : State :=
  { s with
    v := cfg.resetV
    i := cfg.resetI
    pc := BitVec.ofNat 16 programOrigin
    stack := cfg.resetStack
    sp := cfg.resetSp
    dt := cfg.resetDt
    st := cfg.resetSt
    halted := false }

/-- Every key not pressed (45 R163). -/
def keypadReset (s : State) : State := { s with key := Vector.replicate 16 false }

/-- RESET: all four components (70 R230, decision D16). -/
def resetAll (s : State) (cfg : Config := config) : State :=
  keypadReset (setFb (cpuReset (memoryReset s) cfg) clearPlane)

/-- LOAD(bytes): Memory and CPU reset, then the bytes from 0x200; refused over 3584 bytes (70 R233, R234). -/
def load (bytes : List Byte) (s : State) (cfg : Config := config) : Host.Outcome State Fault Refusal :=
  if bytes.length ≤ loadMax then
    .next (setMem (cpuReset (memoryReset s) cfg) (memWriteBytes (memoryReset s).mem programOrigin bytes cfg))
  else .refused .loadTooLong

/-- A timer counted down by one, floor 0 (46 R170). -/
def countDown (t : Byte) : Byte := if t.toNat > 0 then t - 1 else t

/-- TICK: both timers count down independently; nothing else changes (46 R170). -/
def tick (s : State) : State := { s with dt := countDown s.dt, st := countDown s.st }

/-- SETKEY(k, p): refused for `k` over 15 (45 R161). -/
def setKey (k : Nat) (p : Bool) (s : State) : Host.Outcome State Fault Refusal :=
  if h : k < 16 then .next { s with key := s.key.set k p } else .refused .keyIndexOutOfRange

/-- SNAPSHOT: the 2048 bits of the plane, row 0 first and column 0 first within a row (44 R155). -/
def snapshot (s : State) : List Bool := (s.fb.toList.map Vector.toList).flatten

/-- The HALTED level (10_state R33). -/
def haltedOutput (s : State) : Bool := s.halted

end Sys2Proof.Machine
end

