-- ==== Sys2Proof/Machine/Session.lean ====
section
/-! DEFINITION. Sessions: any interleaving of the transactions of spec 00_scope R8, in one total order (R10, 20_memory
R64). -/

namespace Sys2Proof.Machine

/-- One transaction (R8). -/
inductive Transaction where
  /-- RESET (70 R230). -/
  | reset
  /-- LOAD(bytes) (70 R233). -/
  | load (bytes : List Byte)
  /-- STEP (40 R100). -/
  | step
  /-- TICK (46 R170). -/
  | tick
  /-- SETKEY(k, p) (45 R161). -/
  | setKey (k : Nat) (p : Bool)
  /-- SNAPSHOT, which changes nothing (44 R155); its value is `Machine.snapshot`. -/
  | snapshot
  deriving DecidableEq, Repr

/-- The effect of one transaction, atomic on the whole state (R8), over a way to step. -/
def transactBy (run : State → Host.Outcome State Fault Refusal) (x : Transaction) (s : State)
    (cfg : Config := config) : Host.Outcome State Fault Refusal :=
  match x with
  | .reset => .next (resetAll s cfg)
  | .load bytes => load bytes s cfg
  | .step => run s
  | .tick => .next (tick s)
  | .setKey k p => setKey k p s
  | .snapshot => .next s

/-- The effect of one transaction on the modelled machine. -/
def transact (x : Transaction) (s : State) : Host.Outcome State Fault Refusal := transactBy step x s

/-- Transactions one after the other, stopping at the first that has no meaning, over a way to do one. -/
def sessionBy (act : Transaction → State → Host.Outcome State Fault Refusal) (xs : List Transaction) (s : State) :
    Host.Outcome State Fault Refusal :=
  match xs with
  | [] => .next s
  | x :: xs =>
    match act x s with
    | .next t => sessionBy act xs t
    | .fault r => .fault r
    | .refused r => .refused r

/-- A session of the modelled machine. -/
def runSession (xs : List Transaction) (s : State) : Host.Outcome State Fault Refusal := sessionBy transact xs s

/-- The launch of a program: RESET, then LOAD (70 R236). -/
def launch (bytes : List Byte) (s : State) : Host.Outcome State Fault Refusal :=
  runSession [.reset, .load bytes] s

end Sys2Proof.Machine
end

