-- ==== Sys2Proof/Safety.lean ====
section
/-! DEFINITION. The terms statements are made in: a running CPU, the components of the state and what "unchanged" means
for each, and the machine's invariant. -/

namespace Sys2Proof.Machine

/-- The next STEP fetches: neither halted nor stalled (spec 40 R100). -/
def State.Running (s : State) : Prop := s.halted = false ∧ stalled s = false

/-- The pieces of the state (10_state R20) and the model's draw counter (log 1). -/
inductive Component where
  | regs | i | pc | stack | sp | dt | st | halted | mem | key | fb | draws
  deriving DecidableEq, Repr

/-- The component reads the same in both states: memory byte by byte at every address, the plane pixel by pixel, the
registers, slots and keys one by one. -/
def Component.Same (c : Component) (s t : State) : Prop :=
  match c with
  | .regs => ∀ r : Reg, getV t r = getV s r
  | .i => t.i = s.i
  | .pc => t.pc = s.pc
  | .stack => ∀ k : Fin 16, t.stack[k] = s.stack[k]
  | .sp => t.sp = s.sp
  | .dt => t.dt = s.dt
  | .st => t.st = s.st
  | .halted => t.halted = s.halted
  | .mem => ∀ a : Nat, memRead t.mem a = memRead s.mem a
  | .key => ∀ k : Fin 16, t.key[k] = s.key[k]
  | .fb => ∀ x y : Nat, pixel t.fb x y = pixel s.fb x y
  | .draws => t.draws = s.draws

/-- Every component outside the list reads as before: the frame of an instruction. -/
def SameBut (changed : List Component) (s t : State) : Prop := ∀ c : Component, c ∉ changed → c.Same s t

/-- Every register outside the list reads as before. -/
def SameRegsBut (changed : List Reg) (s t : State) : Prop := ∀ r : Reg, r ∉ changed → getV t r = getV s r

end Sys2Proof.Machine

namespace Sys2Proof

open Machine

/-- What an instruction may write: the access summary of 10_state R34, with the general registers, Memory (20 R51), the
plane (44 R159) and the draw counter (log 1) added. `PC` is what the meaning itself writes, beside the fetch
advance. -/
def Instr.mayWrite : Instr → List Component
  | .nop | .sys _ => []
  | .cls => [.fb]
  | .ret => [.pc, .sp]
  | .jp _ | .jpV0 _ => [.pc]
  | .call _ => [.pc, .stack, .sp]
  | .seImm _ _ | .sneImm _ _ | .seReg _ _ | .sneReg _ _ | .skp _ | .sknp _ => [.pc]
  | .ldImm _ _ | .addImm _ _ => [.regs]
  | .ldReg _ _ | .orReg _ _ | .andReg _ _ | .xorReg _ _ | .addReg _ _ => [.regs]
  | .subReg _ _ | .shr _ _ | .subnReg _ _ | .shl _ _ => [.regs]
  | .ldI _ | .ldF _ => [.i]
  | .rnd _ _ => [.regs, .draws]
  | .drw _ _ _ => [.regs, .fb]
  | .ldVxDt _ | .loadRegs _ => [.regs]
  | .ldVxK _ => [.regs, .pc]
  | .ldDtVx _ => [.dt]
  | .ldStVx _ => [.st]
  | .addI _ => [.regs, .i]
  | .ldB _ | .storeRegs _ => [.mem]

/-- The seven instructions that overwrite VF with 0 or 1 on every execution (10_state R23). -/
def Instr.writesFlag : Instr → Bool
  | .addReg _ _ | .subReg _ _ | .shr _ _ | .subnReg _ _ | .shl _ _ | .drw _ _ _ | .addI _ => true
  | .cls | .ret | .nop | .sys _ | .jp _ | .call _ | .jpV0 _ => false
  | .seImm _ _ | .sneImm _ _ | .seReg _ _ | .sneReg _ _ | .skp _ | .sknp _ => false
  | .ldImm _ _ | .addImm _ _ | .ldReg _ _ | .orReg _ _ | .andReg _ _ | .xorReg _ _ => false
  | .ldI _ | .rnd _ _ | .ldVxDt _ | .ldVxK _ | .ldDtVx _ | .ldStVx _ => false
  | .ldF _ | .ldB _ | .storeRegs _ | .loadRegs _ => false

/-- The destination registers an instruction names: its `Vx`, or V0 to Vx for `Fx65` (10_state R21 to R23). VF as a
flag is `writesFlag`. -/
def Instr.names (i : Instr) (r : Reg) : Prop :=
  match i with
  | .ldImm x _ | .addImm x _ | .rnd x _ => r = x
  | .ldReg x _ | .orReg x _ | .andReg x _ | .xorReg x _ | .addReg x _ => r = x
  | .subReg x _ | .shr x _ | .subnReg x _ | .shl x _ => r = x
  | .ldVxDt x | .ldVxK x => r = x
  | .loadRegs x => r ≤ x
  | .cls | .ret | .nop | .sys _ | .jp _ | .call _ | .jpV0 _ => False
  | .seImm _ _ | .sneImm _ _ | .seReg _ _ | .sneReg _ _ | .skp _ | .sknp _ => False
  | .ldI _ | .drw _ _ _ | .ldDtVx _ | .ldStVx _ | .addI _ | .ldF _ | .ldB _ | .storeRegs _ => False

end Sys2Proof

namespace Sys2Proof.Machine

/-- The sprite's bit at column `j` and row `i`: most significant bit first (44 R157). -/
def spriteBit (m : Memory) (base i j : Nat) : Bool := (memRead m (base + i)).getLsbD (7 - j)

/-- Does the sprite of `n` rows at `base`, placed at `(x0, y0)`, have a lit bit on the pixel `(x, y)` of the plane?
The offsets are the distances from the start coordinate round the torus (44 R157, R158). -/
def spriteCovers (m : Memory) (base x0 y0 n x y : Nat) : Bool :=
  let i := (y + dispH - y0 % dispH) % dispH
  let j := (x + dispW - x0 % dispW) % dispW
  decide (i < n) && decide (j < 8) && spriteBit m base i j

/-- The machine's invariant: memory in canonical form, every stack slot at most 0x1001 and PC at most 0x10FE, the
bounds of 10_state R28 and R40. -/
structure State.Inv (s : State) : Prop where
  memWf : s.mem.wf = true
  slots : ∀ k : Fin 16, s.stack[k].toNat ≤ 0x1001
  pcBound : s.pc.toNat ≤ 0x10FE

/-! ### Words of the statements -/

/-- The instruction completes from `s`, in a next state of which `P` holds. -/
def Completes (i : Instr) (s : State) (P : State → Prop) : Prop := ∃ t : State, exec i s = .next t ∧ P t

/-- The six skip instructions with the condition each tests (41_skips R110 to R113; 45_keypad R164, R165). -/
inductive SkipCondition (s : State) : Instr → Prop → Prop where
  | seImm (x : Reg) (kk : Byte) : SkipCondition s (.seImm x kk) (getV s x = kk)
  | sneImm (x : Reg) (kk : Byte) : SkipCondition s (.sneImm x kk) (getV s x ≠ kk)
  | seReg (x y : Reg) : SkipCondition s (.seReg x y) (getV s x = getV s y)
  | sneReg (x y : Reg) : SkipCondition s (.sneReg x y) (getV s x ≠ getV s y)
  | skp (x : Reg) : SkipCondition s (.skp x) (keyAt s (getV s x).toNat = true)
  | sknp (x : Reg) : SkipCondition s (.sknp x) (keyAt s (getV s x).toNat = false)

/-- Nested calls: the `k`-th pair is the value of PC at the `k`-th `CALL` (already past it) and its target. -/
def callChain : List (Word × Addr) → State → Host.Outcome State Fault Refusal
  | [], s => .next s
  | (p, nnn) :: cs, s =>
    match exec (.call nnn) (setPc s p) with
    | .next t => callChain cs t
    | .fault r => .fault r
    | .refused r => .refused r

/-- The PC values `n` consecutive `RET`s give, in order, and the state after them. -/
def returnChain : Nat → State → Option (List Word × State)
  | 0, s => some ([], s)
  | n + 1, s =>
    match exec .ret s with
    | .next t =>
      match returnChain n t with
      | some (ps, u) => some (t.pc :: ps, u)
      | none => none
    | .fault _ => none
    | .refused _ => none

end Sys2Proof.Machine
end

