-- ==== Sys2Proof/Certificates/Slice0/Obligations.lean ====
section
/-! DEFINITION. The statements for the provers. In every statement about `exec i s`, the PC of `s` is already the address
of the instruction plus 2 (spec 00_scope R12, 40 R100); `StepRunsTheDecodedInstruction` carries them to a step. -/

open Sys2Proof Sys2Proof.Machine

/-! ### The step and the decoder -/

/-- R100, with the model's boundary of "beyond the addressable bound", 0x1000 (the spec's own decision D6, log 7) and
PC left advanced by an illegal word (D23, log 21): a halted or stalled STEP changes nothing; otherwise it runs the
instruction the two bytes at PC decode to, PC advanced by 2, or halts on an illegal word. -/
def Obligations.StepRunsTheDecodedInstruction : Prop :=
  ∀ s : State,
    (s.halted = true → step s = .next s) ∧
    (s.halted = false → 0x1000 ≤ s.pc.toNat → step s = .next s) ∧
    (s.halted = false → s.pc.toNat < 0x1000 →
      (∀ i : Instr, decodeWord (memReadWord s.mem s.pc.toNat) = .ok i →
        step s = exec i { s with pc := s.pc + 2 }) ∧
      (∀ e : DecodeError, decodeWord (memReadWord s.mem s.pc.toNat) = .error e →
        step s = .next { s with pc := s.pc + 2, halted := true }))

/-- Words written out from the patterns of R83 and the vectors T-DEC-1 to T-DEC-20 decode as they say. `AABC` as LD I is
the spec's own decision D7 (log 8); refusing `8AB8` and `FA75` its decision D8 (log 9); that `8ABE` is SHL and `8AB8`
nothing rests on the sub-opcodes of group 8, in part the family's (PRESUMED, log 26; the source's examples fix `8AB4`). -/
def Obligations.WordsDecodeAsThePatternsSay : Prop :=
  decodeWord 0x00E0 = .ok .cls ∧ decodeWord 0x00EE = .ok .ret ∧ decodeWord 0x0000 = .ok .nop ∧
  decodeWord 0x0123 = .ok (.sys 0x123) ∧ decodeWord 0x1ABC = .ok (.jp 0xABC) ∧
  decodeWord 0x2ABC = .ok (.call 0xABC) ∧ decodeWord 0x3A7F = .ok (.seImm 10 0x7F) ∧
  decodeWord 0x8AB4 = .ok (.addReg 10 11) ∧ decodeWord 0x8ABE = .ok (.shl 10 11) ∧
  decodeWord 0xAABC = .ok (.ldI 0xABC) ∧ decodeWord 0xCA7F = .ok (.rnd 10 0x7F) ∧
  decodeWord 0xD12F = .ok (.drw 1 2 15) ∧ decodeWord 0xEA9E = .ok (.skp 10) ∧
  decodeWord 0xFA0A = .ok (.ldVxK 10) ∧ decodeWord 0xFA65 = .ok (.loadRegs 10) ∧
  decodeWord 0x8AB8 = .error (.illegalWord 0x8AB8) ∧ decodeWord 0xFA75 = .error (.illegalWord 0xFA75)

/-- Decoding the word of a well-formed instruction gives it back, with every operand, under either reading of `Annn`;
in bytes too, with what follows left over. -/
def Obligations.DecodingAnEncodedInstructionGivesItBack : Prop :=
  (∀ (annn : AnnnMeaning) (i : Instr), i.wfWith annn = true → decodeWordWith annn (encode i) = .ok i) ∧
  (∀ (i : Instr) (rest : List Byte), i.wf = true → decode (encodeBytes i ++ rest) = .ok (i, rest))

/-- A word that decodes is the encoding of the well-formed instruction it decodes to: no two words mean the same
instruction term, and no bit of a legal word is dropped. -/
def Obligations.EncodingADecodedWordGivesItBack : Prop :=
  ∀ (annn : AnnnMeaning) (op : Word) (i : Instr),
    decodeWordWith annn op = .ok i → i.wfWith annn = true ∧ encode i = op

/-- R80: the decoder by group is the first matching row of the table, an illegal word where none matches, and no word
but the three fixed ones matches more than one row. -/
def Obligations.DecoderIsTheFirstMatchingRow : Prop :=
  ∀ (annn : AnnnMeaning) (op : Word),
    decodeWordWith annn op = decodeByTable annn op ∧
    ((opcodeTable annn).filter (fun r => r.hits op)).length ≤
      (if op = 0x0000 ∨ op = 0x00E0 ∨ op = 0x00EE then 2 else 1)

/-- The illegal words of the table of R84, by arithmetic on the word: exactly these are refused by the decoder, every
other word is an instruction. Strict sub-decode is the spec's own decision D8 (log 9), `Annn` as an instruction its
decision D7 (log 8); which sub-opcodes of group 8 are unused is in part the family's (PRESUMED, log 26). -/
def Obligations.IllegalWordsAreExactlyTheListed : Prop :=
  ∀ op : Word,
    let g := op.toNat / 4096
    let n := op.toNat % 16
    let kk := op.toNat % 256
    let illegal : Prop :=
      (g = 5 ∧ n ≠ 0) ∨ (g = 8 ∧ (8 ≤ n ∧ n ≤ 13 ∨ n = 15)) ∨ (g = 9 ∧ n ≠ 0) ∨
      (g = 14 ∧ kk ≠ 0x9E ∧ kk ≠ 0xA1) ∨
      (g = 15 ∧ kk ∉ [0x07, 0x0A, 0x15, 0x18, 0x1E, 0x29, 0x33, 0x55, 0x65])
    (illegal → decodeWord op = .error (.illegalWord op)) ∧ (¬ illegal → ∃ i : Instr, decodeWord op = .ok i)

/-- R53: a byte read takes the address modulo 4096; a two-byte read has its high byte at `a` and its low byte at
`a + 1`, each address reduced on its own. -/
def Obligations.MemoryReadIsBigEndianAndWraps : Prop :=
  ∀ (m : Memory) (a : Nat),
    memRead m a = memRead m (a % 4096) ∧
    (memReadWord m a).toNat = (memRead m (a % 4096)).toNat * 256 + (memRead m ((a + 1) % 4096)).toNat

/-- A word stored where the next fetch reads is the instruction the next step runs, at every fetch address, 0xFFF
included (the model's placing of an instruction, log 25; stores are seen by the next fetch, R67). -/
def Obligations.PlacedWordIsTheNextInstruction : Prop :=
  ∀ (s : State) (w : Nat) (i : Instr), s.Running → s.mem.wf = true → decodeTableWord 16 w = some i →
    step (s.withFetchWord 16 w) = exec i (advancePc (s.withFetchWord 16 w)) ∧
    SameBut [.mem] s (s.withFetchWord 16 w) ∧
    ∀ a : Nat, a % 4096 ≠ s.pc.toNat % 4096 → a % 4096 ≠ (s.pc.toNat + 1) % 4096 →
      memRead (s.withFetchWord 16 w).mem a = memRead s.mem a

/-! ### No-operations and control transfer -/

/-- R101, R102: `0000` NOP, and every other word of group 0 but CLS and RET, leave the state with PC advanced by 2 and
nothing else changed. -/
def Obligations.NopAndSysOnlyAdvancePc : Prop :=
  (∀ s : State, exec .nop s = .next s) ∧
  (∀ (nnn : Addr) (s : State), exec (.sys nnn) s = .next s) ∧
  ∀ s : State, s.Running → (memReadWord s.mem s.pc.toNat).toNat < 0x1000 →
    memReadWord s.mem s.pc.toNat ≠ 0x00E0 → memReadWord s.mem s.pc.toNat ≠ 0x00EE →
    step s = .next { s with pc := s.pc + 2 }

/-- JP sets PC to `nnn` and changes nothing else; the CPU is not stalled after it, 0xFFF included, which rests on the
stall's boundary, the spec's own decision D6 (log 7); by a step, a jump to its own address changes no state. -/
def Obligations.JumpSetsPc : Prop :=
  (∀ (nnn : Addr) (s : State),
    Completes (.jp nnn) s fun t => t.pc.toNat = nnn.toNat ∧ stalled t = false ∧ SameBut [.pc] s t) ∧
  ∀ (nnn : Addr) (s : State), s.Running → decodeWord (memReadWord s.mem s.pc.toNat) = .ok (.jp nnn) →
    nnn.toNat = s.pc.toNat → step s = .next s

/-- JP V0 sets PC to the unmasked sum `nnn + V0`; a sum of 0x1000 or more shows as a step that changes nothing, where the
boundary 0x1000 is the spec's own decision D6 (log 7). -/
def Obligations.JumpV0AddsWithoutMasking : Prop :=
  ∀ (nnn : Addr) (s : State),
    Completes (.jpV0 nnn) s fun t =>
      t.pc.toNat = nnn.toNat + (getV s 0).toNat ∧ SameBut [.pc] s t ∧
      (0x1000 ≤ nnn.toNat + (getV s 0).toNat → step t = .next t)

/-- R105: CALL advances SP modulo 16, writes PC (the address of the next instruction) into that slot only, and jumps;
by a step, the pushed value is the call's address plus 2. -/
def Obligations.CallPushesTheReturnAddress : Prop :=
  (∀ (nnn : Addr) (s : State),
    Completes (.call nnn) s fun t =>
      t.sp.val = (s.sp.val + 1) % 16 ∧ t.stack[t.sp] = s.pc ∧
      (∀ k : Fin 16, k ≠ t.sp → t.stack[k] = s.stack[k]) ∧
      t.pc.toNat = nnn.toNat ∧ SameBut [.pc, .stack, .sp] s t) ∧
  ∀ (nnn : Addr) (s : State), s.Running → decodeWord (memReadWord s.mem s.pc.toNat) = .ok (.call nnn) →
    ∃ t : State, step s = .next t ∧ t.stack[t.sp].toNat = s.pc.toNat + 2 ∧ t.pc.toNat = nnn.toNat

/-- RET takes PC from `STACK[SP]`, all 16 bits, and decrements SP modulo 16; the slot keeps its value. The wrap from 0
to 15 is the spec's own decision D5 (log 6). -/
def Obligations.RetPopsTheReturnAddress : Prop :=
  ∀ s : State,
    Completes .ret s fun t =>
      t.pc = s.stack[s.sp] ∧ t.sp.val = (s.sp.val + 15) % 16 ∧ SameBut [.pc, .sp] s t

/-- S9, the stack round trip: CALL then RET resumes after the call, with SP as before and only a stack slot changed. -/
def Obligations.CallThenRetResumes : Prop :=
  ∀ (nnn : Addr) (s : State), ∃ t u : State,
    exec (.call nnn) s = .next t ∧ exec .ret t = .next u ∧ u.pc = s.pc ∧ u.sp = s.sp ∧ SameBut [.stack] s u

/-- Up to 16 nested calls, from any SP, return correctly and in order: nothing is lost before the 17th call, as the
resolution of conflict C8 has it (log 27). The pop's wrap from 0 to 15 is the spec's own decision D5 (log 6). -/
def Obligations.SixteenNestedCallsReturnInOrder : Prop :=
  ∀ (cs : List (Word × Addr)) (s : State), cs.length ≤ 16 →
    ∃ t u : State, callChain cs s = .next t ∧
      returnChain cs.length t = some ((cs.map Prod.fst).reverse, u) ∧ u.sp = s.sp

/-! ### Skips -/

/-- R110 to R113: the four register-compare skips add 2 to PC exactly when their condition holds and change nothing
else. -/
def Obligations.CompareSkipsTestEquality : Prop :=
  (∀ (x : Reg) (kk : Byte) (s : State),
    exec (.seImm x kk) s = .next { s with pc := if getV s x = kk then s.pc + 2 else s.pc }) ∧
  (∀ (x : Reg) (kk : Byte) (s : State),
    exec (.sneImm x kk) s = .next { s with pc := if getV s x ≠ kk then s.pc + 2 else s.pc }) ∧
  (∀ (x y : Reg) (s : State),
    exec (.seReg x y) s = .next { s with pc := if getV s x = getV s y then s.pc + 2 else s.pc }) ∧
  (∀ (x y : Reg) (s : State),
    exec (.sneReg x y) s = .next { s with pc := if getV s x ≠ getV s y then s.pc + 2 else s.pc })

/-- R162, R164, R165: SKP skips when the key numbered by the whole byte `Vx` is pressed, SKNP when it is not; a number
of 16 or more reads as not pressed. -/
def Obligations.KeySkipsReadTheWholeByte : Prop :=
  ∀ (x : Reg) (s : State),
    (∀ k : Fin 16, (getV s x).toNat = k.val →
      exec (.skp x) s = .next { s with pc := if s.key[k] = true then s.pc + 2 else s.pc } ∧
      exec (.sknp x) s = .next { s with pc := if s.key[k] = false then s.pc + 2 else s.pc }) ∧
    (16 ≤ (getV s x).toNat →
      exec (.skp x) s = .next s ∧ exec (.sknp x) s = .next { s with pc := s.pc + 2 })

/-- R114, for all six skip instructions: by a step, PC ends 4 beyond the skip where its condition holds and 2 beyond
where it does not, and nothing else changes, whatever the skipped word is. -/
def Obligations.SkipsPassOverExactlyOneWord : Prop :=
  ∀ (s : State) (i : Instr) (c : Prop), s.Running → decodeWord (memReadWord s.mem s.pc.toNat) = .ok i →
    SkipCondition s i c →
    (c → step s = .next { s with pc := s.pc + 4 }) ∧ (¬ c → step s = .next { s with pc := s.pc + 2 })

/-! ### Immediates, index load, random -/

/-- R120: `V[x] <- kk`, any byte, VF included. -/
def Obligations.LoadImmediateSetsVx : Prop :=
  ∀ (x : Reg) (kk : Byte) (s : State),
    Completes (.ldImm x kk) s fun t => getV t x = kk ∧ SameRegsBut [x] s t ∧ SameBut [.regs] s t

/-- R121: `V[x] <- (V[x] + kk) mod 256`; no flag is written. -/
def Obligations.AddImmediateWrapsWithoutFlag : Prop :=
  ∀ (x : Reg) (kk : Byte) (s : State),
    Completes (.addImm x kk) s fun t =>
      (getV t x).toNat = ((getV s x).toNat + kk.toNat) % 256 ∧ SameRegsBut [x] s t ∧ SameBut [.regs] s t

/-- `I <- nnn`; the meaning of `Annn` is the spec's own decision D7 (log 8). -/
def Obligations.LoadIndexSetsI : Prop :=
  ∀ (nnn : Addr) (s : State), Completes (.ldI nnn) s fun t => t.i = nnn ∧ SameBut [.i] s t

/-- RND puts the drawn byte AND `kk` into `V[x]`, whatever the draw; each execution draws anew. The draw is a free
value (the spec's own decision D14, log 1), so this holds for every value of it. -/
def Obligations.RandomMasksAFreshDraw : Prop :=
  ∀ (x : Reg) (kk : Byte) (s : State),
    (∀ draw : Byte, getV (randomAnd draw x kk s) x = draw &&& kk ∧
      SameRegsBut [x] s (randomAnd draw x kk s) ∧ SameBut [.regs] s (randomAnd draw x kk s)) ∧
    Completes (.rnd x kk) s fun t =>
      getV t x = Config.rnd s.draws &&& kk ∧ getV t x &&& ~~~kk = 0 ∧ t.draws = s.draws + 1 ∧
      SameRegsBut [x] s t ∧ SameBut [.regs, .draws] s t

/-! ### ALU -/

/-- R130: `V[x] <- V[y]`, no flag. -/
def Obligations.CopyRegister : Prop :=
  ∀ (x y : Reg) (s : State),
    Completes (.ldReg x y) s fun t => getV t x = getV s y ∧ SameRegsBut [x] s t ∧ SameBut [.regs] s t

/-- OR, AND, XOR bit by bit; VF unchanged unless it is `Vx` (the spec's own decision D26, log 24). -/
def Obligations.LogicalOperationsLeaveVfAlone : Prop :=
  ∀ (x y : Reg) (s : State),
    (Completes (.orReg x y) s fun t =>
      (∀ k < 8, (getV t x).getLsbD k = ((getV s x).getLsbD k || (getV s y).getLsbD k)) ∧
      SameRegsBut [x] s t ∧ SameBut [.regs] s t) ∧
    (Completes (.andReg x y) s fun t =>
      (∀ k < 8, (getV t x).getLsbD k = ((getV s x).getLsbD k && (getV s y).getLsbD k)) ∧
      SameRegsBut [x] s t ∧ SameBut [.regs] s t) ∧
    (Completes (.xorReg x y) s fun t =>
      (∀ k < 8, (getV t x).getLsbD k = ((getV s x).getLsbD k ^^ (getV s y).getLsbD k)) ∧
      SameRegsBut [x] s t ∧ SameBut [.regs] s t)

/-- ADD: the sum modulo 256, VF its carry; with `x = F` the flag is what remains (the order of the writes is the
spec's own decision D9, log 10). -/
def Obligations.AddSetsCarry : Prop :=
  ∀ (x y : Reg) (s : State),
    Completes (.addReg x y) s fun t =>
      (x ≠ 15 → (getV t x).toNat = ((getV s x).toNat + (getV s y).toNat) % 256) ∧
      getV t 15 = (if (getV s x).toNat + (getV s y).toNat > 255 then 1 else 0) ∧
      SameRegsBut [x, 15] s t ∧ SameBut [.regs] s t

/-- SUB and SUBN: the difference modulo 256, VF the strict comparison, 0 on equal operands (the spec's own decisions
D9 and D10, logs 10 and 11). -/
def Obligations.SubtractionsSetStrictComparison : Prop :=
  ∀ (x y : Reg) (s : State),
    (Completes (.subReg x y) s fun t =>
      (x ≠ 15 → (getV t x).toNat = ((getV s x).toNat + 256 - (getV s y).toNat) % 256) ∧
      getV t 15 = (if (getV s x).toNat > (getV s y).toNat then 1 else 0) ∧
      SameRegsBut [x, 15] s t ∧ SameBut [.regs] s t) ∧
    (Completes (.subnReg x y) s fun t =>
      (x ≠ 15 → (getV t x).toNat = ((getV s y).toNat + 256 - (getV s x).toNat) % 256) ∧
      getV t 15 = (if (getV s y).toNat > (getV s x).toNat then 1 else 0) ∧
      SameRegsBut [x, 15] s t ∧ SameBut [.regs] s t)

/-- SHR and SHL shift `Vx` in place by one, ignoring `Vy`; VF is the bit shifted out (order: the spec's own decision
D9, log 10). -/
def Obligations.ShiftsActOnVxInPlace : Prop :=
  ∀ (x y : Reg) (s : State),
    (Completes (.shr x y) s fun t =>
      (x ≠ 15 → (getV t x).toNat = (getV s x).toNat / 2) ∧
      (getV t 15).toNat = (getV s x).toNat % 2 ∧
      SameRegsBut [x, 15] s t ∧ SameBut [.regs] s t) ∧
    (Completes (.shl x y) s fun t =>
      (x ≠ 15 → (getV t x).toNat = (getV s x).toNat * 2 % 256) ∧
      (getV t 15).toNat = (getV s x).toNat / 128 ∧
      SameRegsBut [x, 15] s t ∧ SameBut [.regs] s t)

/-! ### Display -/

/-- R156: CLS turns every pixel off and changes nothing else; VF is not written. -/
def Obligations.ClearTurnsEveryPixelOff : Prop :=
  ∀ s : State, Completes .cls s fun t => (∀ x y : Nat, pixel t.fb x y = false) ∧ SameBut [.fb] s t

/-- R151, R152: Plot exclusive-ors one wrapped pixel, reports a collision exactly when both bits are set, and with a
zero bit changes nothing; Pixel reads with the same wrapping. -/
def Obligations.PlotXorsOneWrappedPixel : Prop :=
  ∀ (fb : Plane) (x y : Nat) (b : Bool),
    (∀ x' y' : Nat, pixel (plot fb x y b).1 x' y' =
      (if x' % 64 = x % 64 ∧ y' % 32 = y % 32 then pixel fb x y ^^ b else pixel fb x' y')) ∧
    (plot fb x y b).2 = (pixel fb x y && b) ∧
    plot fb x y false = (fb, false) ∧
    pixel fb x y = fb[y % 32][x % 64]

/-- DRW: every pixel of the plane is exclusive-ored with the sprite's bit that falls on it round the torus, read from
`I` with the coordinates as they were; VF is 1 exactly when a lit pixel was erased, else 0; `n = 0` draws nothing. The
reading of the coordinates before VF is written is the spec's own decision D25 (log 23). -/
def Obligations.DrawXorsTheSpriteOnTheTorus : Prop :=
  ∀ (x y : Reg) (n : Nibble) (s : State),
    Completes (.drw x y n) s fun t =>
      (∀ px < 64, ∀ py < 32, pixel t.fb px py =
        (pixel s.fb px py ^^
          spriteCovers s.mem (effAddr s 0) (getV s x).toNat (getV s y).toNat n.toNat px py)) ∧
      (getV t 15 = 1 ↔ ∃ px < 64, ∃ py < 32, pixel s.fb px py = true ∧
        spriteCovers s.mem (effAddr s 0) (getV s x).toNat (getV s y).toNat n.toNat px py = true) ∧
      (getV t 15 = 0 ∨ getV t 15 = 1) ∧
      SameRegsBut [15] s t ∧ SameBut [.regs, .fb] s t

/-- R154 and R158(h): a sprite drawn twice at one place restores the plane; on a clear plane the first draw reports no
collision and the second reports one if the sprite has a lit bit. With VF as a coordinate register the first draw
moves the second, so that form is left to `DrawXorsTheSpriteOnTheTorus`. -/
def Obligations.DrawingTwiceRestoresThePlane : Prop :=
  ∀ (x y : Reg) (n : Nibble) (s : State), x ≠ 15 → y ≠ 15 →
    ∃ t u : State, exec (.drw x y n) s = .next t ∧ exec (.drw x y n) t = .next u ∧ u.fb = s.fb ∧
      ((∀ px py : Nat, pixel s.fb px py = false) →
        getV t 15 = 0 ∧
        (getV u 15 = 1 ↔ ∃ i < n.toNat, ∃ j < 8, spriteBit s.mem (effAddr s 0) i j = true))

/-- R155: SNAPSHOT is the 2048 bits of the plane in row-major order, and changes nothing. -/
def Obligations.SnapshotIsThePlaneRowByRow : Prop :=
  ∀ s : State, (snapshot s).length = 2048 ∧ transact .snapshot s = .next s ∧
    ∀ x < 64, ∀ y < 32, (snapshot s)[64 * y + x]? = some (pixel s.fb x y)

/-! ### Keypad and timers -/

/-- The key-wait takes the lowest pressed key of 0 to 14, or moves PC back by 2 and changes nothing else; key 15 is
not seen (taking the lowest is the spec's own decision D12, log 13). -/
def Obligations.KeyWaitTakesTheLowestKey : Prop :=
  ∀ (x : Reg) (s : State),
    (∀ k : Fin 16, k.val ≤ 14 → s.key[k] = true → (∀ j : Fin 16, j < k → s.key[j] = false) →
      Completes (.ldVxK x) s fun t =>
        (getV t x).toNat = k.val ∧ SameRegsBut [x] s t ∧ SameBut [.regs] s t) ∧
    ((∀ k : Fin 16, k.val ≤ 14 → s.key[k] = false) →
      exec (.ldVxK x) s = .next { s with pc := s.pc - 2 })

/-- S8 and R167(d): while no key of 0 to 14 is pressed, any number of steps of a key-wait leaves the whole state as it
is. -/
def Obligations.KeyWaitSpinsUnchanged : Prop :=
  ∀ (x : Reg) (s : State) (n : Nat), s.Running → decodeWord (memReadWord s.mem s.pc.toNat) = .ok (.ldVxK x) →
    (∀ k : Fin 16, k.val ≤ 14 → s.key[k] = false) →
    runSession (List.replicate n .step) s = .next s

/-- R167(e) and (g), S8: the first press of a key of 0 to 14 ends a key-wait. The next step puts the key's number into
`V[x]`, leaves PC past the instruction, and changes nothing else. -/
def Obligations.KeyWaitEndsWithAPress : Prop :=
  ∀ (x : Reg) (s : State) (k : Nat), k ≤ 14 → s.Running →
    decodeWord (memReadWord s.mem s.pc.toNat) = .ok (.ldVxK x) →
    (∀ j : Fin 16, j.val ≤ 14 → s.key[j] = false) →
    ∃ t : State, runSession [.setKey k true, .step] s = .next t ∧
      (getV t x).toNat = k ∧ t.pc = s.pc + 2 ∧
      SameRegsBut [x] s t ∧ SameBut [.regs, .pc, .key] s t

/-- R171, R172, R173: the three timer transfers, and nothing else changes. -/
def Obligations.TimerTransfers : Prop :=
  ∀ (x : Reg) (s : State),
    (Completes (.ldVxDt x) s fun t => getV t x = s.dt ∧ SameRegsBut [x] s t ∧ SameBut [.regs] s t) ∧
    (Completes (.ldDtVx x) s fun t => t.dt = getV s x ∧ SameBut [.dt] s t) ∧
    (Completes (.ldStVx x) s fun t => t.st = getV s x ∧ SameBut [.st] s t)

/-- R170: TICK takes 1 from each timer, floor 0, independently and in every CPU condition, and touches nothing else. -/
def Obligations.TickCountsBothTimersDown : Prop :=
  ∀ s : State, ∃ t : State, transact .tick s = .next t ∧
    (s.dt.toNat > 0 → t.dt.toNat = s.dt.toNat - 1) ∧ (s.dt.toNat = 0 → t.dt.toNat = 0) ∧
    (s.st.toNat > 0 → t.st.toNat = s.st.toNat - 1) ∧ (s.st.toNat = 0 → t.st.toNat = 0) ∧
    SameBut [.dt, .st] s t

/-- S10: `n` ticks take `n` from each timer and never go below 0. -/
def Obligations.ManyTicksFloorAtZero : Prop :=
  ∀ (n : Nat) (s : State), ∃ t : State, runSession (List.replicate n .tick) s = .next t ∧
    t.dt.toNat = s.dt.toNat - n ∧ t.st.toNat = s.st.toNat - n ∧ SameBut [.dt, .st] s t

/-! ### Index register and memory transfer -/

/-- ADD I: the sum modulo 4096, VF 1 exactly when the unmasked sum exceeds 0xFFF; with `x = F` the addend is the old VF
(order: the spec's own decision D9, log 10). -/
def Obligations.AddIndexWrapsAndSetsVf : Prop :=
  ∀ (x : Reg) (s : State),
    Completes (.addI x) s fun t =>
      t.i.toNat = (s.i.toNat + (getV s x).toNat) % 4096 ∧
      getV t 15 = (if s.i.toNat + (getV s x).toNat > 0xFFF then 1 else 0) ∧
      SameRegsBut [15] s t ∧ SameBut [.regs, .i] s t

/-- R181: I becomes five times the low nibble of `Vx`, an address of the font region; memory is not read. -/
def Obligations.FontAddressUsesTheLowNibble : Prop :=
  ∀ (x : Reg) (s : State),
    Completes (.ldF x) s fun t =>
      t.i.toNat = (getV s x).toNat % 16 * 5 ∧ t.i.toNat ≤ 0x04B ∧ SameBut [.i] s t

/-- R182: the hundreds, tens and units digits at `I`, `I + 1`, `I + 2`, each address wrapped on its own; every other
byte reads as before and nothing else changes. -/
def Obligations.BcdStoresThreeDigits : Prop :=
  ∀ (x : Reg) (s : State), s.mem.wf = true →
    Completes (.ldB x) s fun t =>
      (memRead t.mem (effAddr s 0)).toNat = (getV s x).toNat / 100 ∧
      (memRead t.mem (effAddr s 1)).toNat = (getV s x).toNat / 10 % 10 ∧
      (memRead t.mem (effAddr s 2)).toNat = (getV s x).toNat % 10 ∧
      (∀ a : Nat, (∀ k < 3, a % 4096 ≠ effAddr s k % 4096) → memRead t.mem a = memRead s.mem a) ∧
      SameBut [.mem] s t

/-- The dump stores V0 to Vx at `I` up, wrapped byte by byte; every other byte reads as before; I and the registers
are unchanged (I unchanged is the spec's own decision D11, log 12). -/
def Obligations.DumpStoresRegistersFromI : Prop :=
  ∀ (x : Reg) (s : State), s.mem.wf = true →
    Completes (.storeRegs x) s fun t =>
      (∀ r : Reg, r ≤ x → memRead t.mem (effAddr s r.val) = getV s r) ∧
      (∀ a : Nat, (∀ k ≤ x.val, a % 4096 ≠ effAddr s k % 4096) → memRead t.mem a = memRead s.mem a) ∧
      SameBut [.mem] s t

/-- The load fills V0 to Vx from `I` up, wrapped byte by byte; registers above `Vx`, memory and I are unchanged (I
unchanged is the spec's own decision D11, log 12). -/
def Obligations.LoadFillsRegistersFromI : Prop :=
  ∀ (x : Reg) (s : State),
    Completes (.loadRegs x) s fun t =>
      (∀ r : Reg, r ≤ x → getV t r = memRead s.mem (effAddr s r.val)) ∧
      (∀ r : Reg, x < r → getV t r = getV s r) ∧
      SameBut [.regs] s t

/-- R186, derived: loading back what a dump has just stored changes nothing at all, which is why the repository's
fallthrough is invisible. -/
def Obligations.LoadAfterDumpChangesNothing : Prop :=
  ∀ (x : Reg) (s : State), s.mem.wf = true →
    ∃ t : State, exec (.storeRegs x) s = .next t ∧ exec (.loadRegs x) t = .next t

/-! ### Whole-machine rules -/

/-- R34, R51 and R159: an instruction writes no component of the state but those the access summary gives it. -/
def Obligations.InstructionsWriteOnlyTheirComponents : Prop :=
  ∀ (i : Instr) (s t : State), exec i s = .next t → SameBut i.mayWrite s t

/-- R21 and R23: an instruction changes no register but the ones it names, and VF where it is one of the seven flag
writers. -/
def Obligations.InstructionsWriteOnlyTheirRegisters : Prop :=
  ∀ (i : Instr) (s t : State) (r : Reg), exec i s = .next t → ¬ i.names r → (i.writesFlag = true → r ≠ 15) →
    getV t r = getV s r

/-- R23: each of the seven flag writers leaves VF exactly 0 or 1, whatever its operands. -/
def Obligations.FlagWritersLeaveZeroOrOne : Prop :=
  ∀ (i : Instr) (s t : State), exec i s = .next t → i.writesFlag = true → getV t 15 = 0 ∨ getV t 15 = 1

/-- There is no trap: every instruction and every step answers a next state, from every state. -/
def Obligations.EveryStepAnswersANextState : Prop :=
  (∀ (i : Instr) (s : State), ∃ t : State, exec i s = .next t) ∧ (∀ s : State, ∃ t : State, step s = .next t)

/-- R202: a halted STEP is a no-op; TICK, SETKEY and SNAPSHOT act as on a running CPU; RESET and LOAD, and they
alone, clear HALTED, and no instruction sets or clears it. -/
def Obligations.HaltedUntilResetOrLoad : Prop :=
  (∀ s : State, s.halted = true → step s = .next s) ∧
  (∀ (s : State) (k : Fin 16) (p b : Bool),
    transact .tick { s with halted := b } = .next { tick s with halted := b } ∧
    transact (.setKey k.val p) { s with halted := b } =
      .next { s with halted := b, key := s.key.set k.val p } ∧
    transact .snapshot { s with halted := b } = .next { s with halted := b }) ∧
  (∀ (x : Transaction) (s t : State), transact x s = .next t → s.halted = true → t.halted = false →
    x = .reset ∨ ∃ bytes : List Byte, x = .load bytes) ∧
  (∀ s : State, ∃ t : State, transact .reset s = .next t ∧ t.halted = false) ∧
  (∀ (s : State) (bytes : List Byte), bytes.length ≤ 3584 →
    ∃ t : State, transact (.load bytes) s = .next t ∧ t.halted = false) ∧
  (∀ (i : Instr) (s t : State), exec i s = .next t → t.halted = s.halted)

/-- The halted flag is set by a step only where the word fetched is illegal (the set side of R33). -/
def Obligations.OnlyAnIllegalWordHalts : Prop :=
  ∀ s t : State, step s = .next t → s.halted = false → t.halted = true →
    s.pc.toNat < 0x1000 ∧ decodeWord (memReadWord s.mem s.pc.toNat) =
      .error (.illegalWord (memReadWord s.mem s.pc.toNat)) ∧
    t = { s with pc := s.pc + 2, halted := true }

/-- The stall: with PC at 0x1000 or more (the spec's own decision D6, log 7) any mix of STEP, TICK, SETKEY and SNAPSHOT
leaves PC, HALTED, the registers, memory and the plane as they are. -/
def Obligations.StalledUntilResetOrLoad : Prop :=
  ∀ (xs : List Transaction) (s t : State), 0x1000 ≤ s.pc.toNat →
    (∀ x ∈ xs, x ≠ .reset ∧ ∀ bytes : List Byte, x ≠ .load bytes) →
    runSession xs s = .next t → SameBut [.dt, .st, .key] s t

/-- R32: no instruction reads the sound timer. Two states that differ only in ST take next states that differ at most
in ST. -/
def Obligations.SoundTimerIsReadByNoInstruction : Prop :=
  ∀ (i : Instr) (s t : State) (b : Byte), exec i s = .next t →
    ∃ t' : State, exec i { s with st := b } = .next t' ∧ { t' with st := t.st } = t

/-! ### The invariant -/

/-- Every step keeps the invariant: memory in canonical form, stack slots at most 0x1001, PC at most 0x10FE (the bounds
of 10_state R28 and R40). -/
def Obligations.StepKeepsTheInvariant : Prop :=
  ∀ s t : State, s.Inv → step s = .next t → t.Inv

/-- Every transaction, and so every session in any interleaving, keeps the invariant. -/
def Obligations.SessionsKeepTheInvariant : Prop :=
  ∀ (xs : List Transaction) (s t : State), s.Inv → runSession xs s = .next t → t.Inv

/-- The invariant holds right after reset. -/
def Obligations.ResetHasTheInvariant : Prop := State.reset.Inv

/-! ### Reset, load and the keypad's input -/

/-- R41, R43, R44, R47: what the source itself gives for reset. -/
def Obligations.ResetGivesTheSourceValues : Prop :=
  State.reset.pc = 0x200 ∧ (∀ x y : Nat, pixel State.reset.fb x y = false) ∧
  (∀ k : Fin 16, State.reset.key[k] = false) ∧ State.reset.halted = false

/-- The reset values the spec decides itself (D1 to D4, D13, D24; logs 2 to 5, 14 and 22): registers, I, SP, slots and
timers 0; memory the font below 0x050 and 0x00 above. -/
def Obligations.ResetGivesTheDecidedValues : Prop :=
  (∀ r : Reg, getV State.reset r = 0) ∧ State.reset.i = 0 ∧ State.reset.sp = 0 ∧
  (∀ k : Fin 16, State.reset.stack[k] = 0) ∧ State.reset.dt = 0 ∧ State.reset.st = 0 ∧
  (∀ a < 80, fontGlyphs.flatten[a]? = some (memRead State.reset.mem a)) ∧
  (∀ a < 4096, 80 ≤ a → memRead State.reset.mem a = 0)

/-- RESET puts every component into its reset state from any state (decision D16, log 16); only the model's draw
counter goes on (log 1). -/
def Obligations.ResetTransactionRestoresEverything : Prop :=
  ∀ s : State, transact .reset s = .next { State.reset with draws := s.draws }

/-- LOAD resets Memory and CPU and writes the image from 0x200, leaving the plane and the keys (the spec's own decisions
D1 to D4, D13, D16, D24; logs 2 to 5, 14, 16, 22); over 3584 bytes it is refused (D15, log 15). -/
def Obligations.LoadPlacesTheProgram : Prop :=
  ∀ (bytes : List Byte) (s : State),
    (bytes.length ≤ 3584 → ∃ t : State, transact (.load bytes) s = .next t ∧
      (∀ k < bytes.length, bytes[k]? = some (memRead t.mem (0x200 + k))) ∧
      (∀ a < 4096, a < 0x200 ∨ 0x200 + bytes.length ≤ a → memRead t.mem a = memRead State.reset.mem a) ∧
      t.pc = 0x200 ∧ t.halted = false ∧ (∀ r : Reg, getV t r = 0) ∧ t.i = 0 ∧ t.sp = 0 ∧
      (∀ k : Fin 16, t.stack[k] = 0) ∧ t.dt = 0 ∧ t.st = 0 ∧ t.fb = s.fb ∧ t.key = s.key) ∧
    (3584 < bytes.length → transact (.load bytes) s = .refused .loadTooLong)

/-- SETKEY sets one key and nothing else; an index over 15 is refused (the spec's own decision D17, log 17). -/
def Obligations.SetKeyWritesOneKey : Prop :=
  ∀ (k : Nat) (p : Bool) (s : State),
    (k < 16 → ∃ t : State, transact (.setKey k p) s = .next t ∧ keyAt t k = p ∧
      (∀ j : Nat, j ≠ k → keyAt t j = keyAt s j) ∧ SameBut [.key] s t) ∧
    (16 ≤ k → transact (.setKey k p) s = .refused .keyIndexOutOfRange)
end

