-- ==== Sys2Proof/Laws/State.lean ====
section
/-! SUPPORT. One lemma per field per update, each true by unfolding, so that no proof unfolds a record update. -/

namespace Sys2Proof.Machine

/-! ### setV -/

@[simp] theorem setV_v (s : State) (r : Reg) (b : Byte) : (setV s r b).v = s.v.set r.val b := rfl
@[simp] theorem setV_i (s : State) (r : Reg) (b : Byte) : (setV s r b).i = s.i := rfl
@[simp] theorem setV_pc (s : State) (r : Reg) (b : Byte) : (setV s r b).pc = s.pc := rfl
@[simp] theorem setV_stack (s : State) (r : Reg) (b : Byte) : (setV s r b).stack = s.stack := rfl
@[simp] theorem setV_sp (s : State) (r : Reg) (b : Byte) : (setV s r b).sp = s.sp := rfl
@[simp] theorem setV_dt (s : State) (r : Reg) (b : Byte) : (setV s r b).dt = s.dt := rfl
@[simp] theorem setV_st (s : State) (r : Reg) (b : Byte) : (setV s r b).st = s.st := rfl
@[simp] theorem setV_halted (s : State) (r : Reg) (b : Byte) : (setV s r b).halted = s.halted := rfl
@[simp] theorem setV_mem (s : State) (r : Reg) (b : Byte) : (setV s r b).mem = s.mem := rfl
@[simp] theorem setV_key (s : State) (r : Reg) (b : Byte) : (setV s r b).key = s.key := rfl
@[simp] theorem setV_fb (s : State) (r : Reg) (b : Byte) : (setV s r b).fb = s.fb := rfl
@[simp] theorem setV_draws (s : State) (r : Reg) (b : Byte) : (setV s r b).draws = s.draws := rfl

/-! ### setI -/

@[simp] theorem setI_v (s : State) (a : Addr) : (setI s a).v = s.v := rfl
@[simp] theorem setI_i (s : State) (a : Addr) : (setI s a).i = a := rfl
@[simp] theorem setI_pc (s : State) (a : Addr) : (setI s a).pc = s.pc := rfl
@[simp] theorem setI_stack (s : State) (a : Addr) : (setI s a).stack = s.stack := rfl
@[simp] theorem setI_sp (s : State) (a : Addr) : (setI s a).sp = s.sp := rfl
@[simp] theorem setI_dt (s : State) (a : Addr) : (setI s a).dt = s.dt := rfl
@[simp] theorem setI_st (s : State) (a : Addr) : (setI s a).st = s.st := rfl
@[simp] theorem setI_halted (s : State) (a : Addr) : (setI s a).halted = s.halted := rfl
@[simp] theorem setI_mem (s : State) (a : Addr) : (setI s a).mem = s.mem := rfl
@[simp] theorem setI_key (s : State) (a : Addr) : (setI s a).key = s.key := rfl
@[simp] theorem setI_fb (s : State) (a : Addr) : (setI s a).fb = s.fb := rfl
@[simp] theorem setI_draws (s : State) (a : Addr) : (setI s a).draws = s.draws := rfl

/-! ### setDt -/

@[simp] theorem setDt_v (s : State) (b : Byte) : (setDt s b).v = s.v := rfl
@[simp] theorem setDt_i (s : State) (b : Byte) : (setDt s b).i = s.i := rfl
@[simp] theorem setDt_pc (s : State) (b : Byte) : (setDt s b).pc = s.pc := rfl
@[simp] theorem setDt_stack (s : State) (b : Byte) : (setDt s b).stack = s.stack := rfl
@[simp] theorem setDt_sp (s : State) (b : Byte) : (setDt s b).sp = s.sp := rfl
@[simp] theorem setDt_dt (s : State) (b : Byte) : (setDt s b).dt = b := rfl
@[simp] theorem setDt_st (s : State) (b : Byte) : (setDt s b).st = s.st := rfl
@[simp] theorem setDt_halted (s : State) (b : Byte) : (setDt s b).halted = s.halted := rfl
@[simp] theorem setDt_mem (s : State) (b : Byte) : (setDt s b).mem = s.mem := rfl
@[simp] theorem setDt_key (s : State) (b : Byte) : (setDt s b).key = s.key := rfl
@[simp] theorem setDt_fb (s : State) (b : Byte) : (setDt s b).fb = s.fb := rfl
@[simp] theorem setDt_draws (s : State) (b : Byte) : (setDt s b).draws = s.draws := rfl

/-! ### setSt -/

@[simp] theorem setSt_v (s : State) (b : Byte) : (setSt s b).v = s.v := rfl
@[simp] theorem setSt_i (s : State) (b : Byte) : (setSt s b).i = s.i := rfl
@[simp] theorem setSt_pc (s : State) (b : Byte) : (setSt s b).pc = s.pc := rfl
@[simp] theorem setSt_stack (s : State) (b : Byte) : (setSt s b).stack = s.stack := rfl
@[simp] theorem setSt_sp (s : State) (b : Byte) : (setSt s b).sp = s.sp := rfl
@[simp] theorem setSt_dt (s : State) (b : Byte) : (setSt s b).dt = s.dt := rfl
@[simp] theorem setSt_st (s : State) (b : Byte) : (setSt s b).st = b := rfl
@[simp] theorem setSt_halted (s : State) (b : Byte) : (setSt s b).halted = s.halted := rfl
@[simp] theorem setSt_mem (s : State) (b : Byte) : (setSt s b).mem = s.mem := rfl
@[simp] theorem setSt_key (s : State) (b : Byte) : (setSt s b).key = s.key := rfl
@[simp] theorem setSt_fb (s : State) (b : Byte) : (setSt s b).fb = s.fb := rfl
@[simp] theorem setSt_draws (s : State) (b : Byte) : (setSt s b).draws = s.draws := rfl

/-! ### setPc -/

@[simp] theorem setPc_v (s : State) (w : Word) : (setPc s w).v = s.v := rfl
@[simp] theorem setPc_i (s : State) (w : Word) : (setPc s w).i = s.i := rfl
@[simp] theorem setPc_pc (s : State) (w : Word) : (setPc s w).pc = w := rfl
@[simp] theorem setPc_stack (s : State) (w : Word) : (setPc s w).stack = s.stack := rfl
@[simp] theorem setPc_sp (s : State) (w : Word) : (setPc s w).sp = s.sp := rfl
@[simp] theorem setPc_dt (s : State) (w : Word) : (setPc s w).dt = s.dt := rfl
@[simp] theorem setPc_st (s : State) (w : Word) : (setPc s w).st = s.st := rfl
@[simp] theorem setPc_halted (s : State) (w : Word) : (setPc s w).halted = s.halted := rfl
@[simp] theorem setPc_mem (s : State) (w : Word) : (setPc s w).mem = s.mem := rfl
@[simp] theorem setPc_key (s : State) (w : Word) : (setPc s w).key = s.key := rfl
@[simp] theorem setPc_fb (s : State) (w : Word) : (setPc s w).fb = s.fb := rfl
@[simp] theorem setPc_draws (s : State) (w : Word) : (setPc s w).draws = s.draws := rfl

/-! ### advancePc -/

@[simp] theorem advancePc_v (s : State) : (advancePc s).v = s.v := rfl
@[simp] theorem advancePc_i (s : State) : (advancePc s).i = s.i := rfl
@[simp] theorem advancePc_pc (s : State) : (advancePc s).pc = s.pc + 2 := rfl
@[simp] theorem advancePc_stack (s : State) : (advancePc s).stack = s.stack := rfl
@[simp] theorem advancePc_sp (s : State) : (advancePc s).sp = s.sp := rfl
@[simp] theorem advancePc_dt (s : State) : (advancePc s).dt = s.dt := rfl
@[simp] theorem advancePc_st (s : State) : (advancePc s).st = s.st := rfl
@[simp] theorem advancePc_halted (s : State) : (advancePc s).halted = s.halted := rfl
@[simp] theorem advancePc_mem (s : State) : (advancePc s).mem = s.mem := rfl
@[simp] theorem advancePc_key (s : State) : (advancePc s).key = s.key := rfl
@[simp] theorem advancePc_fb (s : State) : (advancePc s).fb = s.fb := rfl
@[simp] theorem advancePc_draws (s : State) : (advancePc s).draws = s.draws := rfl

/-! ### rewindPc -/

@[simp] theorem rewindPc_v (s : State) : (rewindPc s).v = s.v := rfl
@[simp] theorem rewindPc_i (s : State) : (rewindPc s).i = s.i := rfl
@[simp] theorem rewindPc_pc (s : State) : (rewindPc s).pc = s.pc - 2 := rfl
@[simp] theorem rewindPc_stack (s : State) : (rewindPc s).stack = s.stack := rfl
@[simp] theorem rewindPc_sp (s : State) : (rewindPc s).sp = s.sp := rfl
@[simp] theorem rewindPc_dt (s : State) : (rewindPc s).dt = s.dt := rfl
@[simp] theorem rewindPc_st (s : State) : (rewindPc s).st = s.st := rfl
@[simp] theorem rewindPc_halted (s : State) : (rewindPc s).halted = s.halted := rfl
@[simp] theorem rewindPc_mem (s : State) : (rewindPc s).mem = s.mem := rfl
@[simp] theorem rewindPc_key (s : State) : (rewindPc s).key = s.key := rfl
@[simp] theorem rewindPc_fb (s : State) : (rewindPc s).fb = s.fb := rfl
@[simp] theorem rewindPc_draws (s : State) : (rewindPc s).draws = s.draws := rfl

/-! ### pushReturn -/

@[simp] theorem pushReturn_v (s : State) : (pushReturn s).v = s.v := rfl
@[simp] theorem pushReturn_i (s : State) : (pushReturn s).i = s.i := rfl
@[simp] theorem pushReturn_pc (s : State) : (pushReturn s).pc = s.pc := rfl
@[simp] theorem pushReturn_stack (s : State) : (pushReturn s).stack = s.stack.set (s.sp + 1).val s.pc := rfl
@[simp] theorem pushReturn_sp (s : State) : (pushReturn s).sp = s.sp + 1 := rfl
@[simp] theorem pushReturn_dt (s : State) : (pushReturn s).dt = s.dt := rfl
@[simp] theorem pushReturn_st (s : State) : (pushReturn s).st = s.st := rfl
@[simp] theorem pushReturn_halted (s : State) : (pushReturn s).halted = s.halted := rfl
@[simp] theorem pushReturn_mem (s : State) : (pushReturn s).mem = s.mem := rfl
@[simp] theorem pushReturn_key (s : State) : (pushReturn s).key = s.key := rfl
@[simp] theorem pushReturn_fb (s : State) : (pushReturn s).fb = s.fb := rfl
@[simp] theorem pushReturn_draws (s : State) : (pushReturn s).draws = s.draws := rfl

/-! ### popReturn -/

@[simp] theorem popReturn_v (s : State) : (popReturn s).v = s.v := rfl
@[simp] theorem popReturn_i (s : State) : (popReturn s).i = s.i := rfl
@[simp] theorem popReturn_pc (s : State) : (popReturn s).pc = s.stack[s.sp.val] := rfl
@[simp] theorem popReturn_stack (s : State) : (popReturn s).stack = s.stack := rfl
@[simp] theorem popReturn_sp (s : State) : (popReturn s).sp = s.sp - 1 := rfl
@[simp] theorem popReturn_dt (s : State) : (popReturn s).dt = s.dt := rfl
@[simp] theorem popReturn_st (s : State) : (popReturn s).st = s.st := rfl
@[simp] theorem popReturn_halted (s : State) : (popReturn s).halted = s.halted := rfl
@[simp] theorem popReturn_mem (s : State) : (popReturn s).mem = s.mem := rfl
@[simp] theorem popReturn_key (s : State) : (popReturn s).key = s.key := rfl
@[simp] theorem popReturn_fb (s : State) : (popReturn s).fb = s.fb := rfl
@[simp] theorem popReturn_draws (s : State) : (popReturn s).draws = s.draws := rfl

/-! ### nextDraw -/

@[simp] theorem nextDraw_v (s : State) : (nextDraw s).v = s.v := rfl
@[simp] theorem nextDraw_i (s : State) : (nextDraw s).i = s.i := rfl
@[simp] theorem nextDraw_pc (s : State) : (nextDraw s).pc = s.pc := rfl
@[simp] theorem nextDraw_stack (s : State) : (nextDraw s).stack = s.stack := rfl
@[simp] theorem nextDraw_sp (s : State) : (nextDraw s).sp = s.sp := rfl
@[simp] theorem nextDraw_dt (s : State) : (nextDraw s).dt = s.dt := rfl
@[simp] theorem nextDraw_st (s : State) : (nextDraw s).st = s.st := rfl
@[simp] theorem nextDraw_halted (s : State) : (nextDraw s).halted = s.halted := rfl
@[simp] theorem nextDraw_mem (s : State) : (nextDraw s).mem = s.mem := rfl
@[simp] theorem nextDraw_key (s : State) : (nextDraw s).key = s.key := rfl
@[simp] theorem nextDraw_fb (s : State) : (nextDraw s).fb = s.fb := rfl
@[simp] theorem nextDraw_draws (s : State) : (nextDraw s).draws = s.draws + 1 := rfl

/-! ### setMem -/

@[simp] theorem setMem_v (s : State) (m : Memory) : (setMem s m).v = s.v := rfl
@[simp] theorem setMem_i (s : State) (m : Memory) : (setMem s m).i = s.i := rfl
@[simp] theorem setMem_pc (s : State) (m : Memory) : (setMem s m).pc = s.pc := rfl
@[simp] theorem setMem_stack (s : State) (m : Memory) : (setMem s m).stack = s.stack := rfl
@[simp] theorem setMem_sp (s : State) (m : Memory) : (setMem s m).sp = s.sp := rfl
@[simp] theorem setMem_dt (s : State) (m : Memory) : (setMem s m).dt = s.dt := rfl
@[simp] theorem setMem_st (s : State) (m : Memory) : (setMem s m).st = s.st := rfl
@[simp] theorem setMem_halted (s : State) (m : Memory) : (setMem s m).halted = s.halted := rfl
@[simp] theorem setMem_mem (s : State) (m : Memory) : (setMem s m).mem = m := rfl
@[simp] theorem setMem_key (s : State) (m : Memory) : (setMem s m).key = s.key := rfl
@[simp] theorem setMem_fb (s : State) (m : Memory) : (setMem s m).fb = s.fb := rfl
@[simp] theorem setMem_draws (s : State) (m : Memory) : (setMem s m).draws = s.draws := rfl

/-! ### setRegs -/

@[simp] theorem setRegs_v (s : State) (v : Vector Byte 16) : (setRegs s v).v = v := rfl
@[simp] theorem setRegs_i (s : State) (v : Vector Byte 16) : (setRegs s v).i = s.i := rfl
@[simp] theorem setRegs_pc (s : State) (v : Vector Byte 16) : (setRegs s v).pc = s.pc := rfl
@[simp] theorem setRegs_stack (s : State) (v : Vector Byte 16) : (setRegs s v).stack = s.stack := rfl
@[simp] theorem setRegs_sp (s : State) (v : Vector Byte 16) : (setRegs s v).sp = s.sp := rfl
@[simp] theorem setRegs_dt (s : State) (v : Vector Byte 16) : (setRegs s v).dt = s.dt := rfl
@[simp] theorem setRegs_st (s : State) (v : Vector Byte 16) : (setRegs s v).st = s.st := rfl
@[simp] theorem setRegs_halted (s : State) (v : Vector Byte 16) : (setRegs s v).halted = s.halted := rfl
@[simp] theorem setRegs_mem (s : State) (v : Vector Byte 16) : (setRegs s v).mem = s.mem := rfl
@[simp] theorem setRegs_key (s : State) (v : Vector Byte 16) : (setRegs s v).key = s.key := rfl
@[simp] theorem setRegs_fb (s : State) (v : Vector Byte 16) : (setRegs s v).fb = s.fb := rfl
@[simp] theorem setRegs_draws (s : State) (v : Vector Byte 16) : (setRegs s v).draws = s.draws := rfl

/-! ### setFb -/

@[simp] theorem setFb_v (s : State) (fb : Plane) : (setFb s fb).v = s.v := rfl
@[simp] theorem setFb_i (s : State) (fb : Plane) : (setFb s fb).i = s.i := rfl
@[simp] theorem setFb_pc (s : State) (fb : Plane) : (setFb s fb).pc = s.pc := rfl
@[simp] theorem setFb_stack (s : State) (fb : Plane) : (setFb s fb).stack = s.stack := rfl
@[simp] theorem setFb_sp (s : State) (fb : Plane) : (setFb s fb).sp = s.sp := rfl
@[simp] theorem setFb_dt (s : State) (fb : Plane) : (setFb s fb).dt = s.dt := rfl
@[simp] theorem setFb_st (s : State) (fb : Plane) : (setFb s fb).st = s.st := rfl
@[simp] theorem setFb_halted (s : State) (fb : Plane) : (setFb s fb).halted = s.halted := rfl
@[simp] theorem setFb_mem (s : State) (fb : Plane) : (setFb s fb).mem = s.mem := rfl
@[simp] theorem setFb_key (s : State) (fb : Plane) : (setFb s fb).key = s.key := rfl
@[simp] theorem setFb_fb (s : State) (fb : Plane) : (setFb s fb).fb = fb := rfl
@[simp] theorem setFb_draws (s : State) (fb : Plane) : (setFb s fb).draws = s.draws := rfl

/-! ### raiseHalt -/

@[simp] theorem raiseHalt_v (s : State) : (raiseHalt s).v = s.v := rfl
@[simp] theorem raiseHalt_i (s : State) : (raiseHalt s).i = s.i := rfl
@[simp] theorem raiseHalt_pc (s : State) : (raiseHalt s).pc = s.pc := rfl
@[simp] theorem raiseHalt_stack (s : State) : (raiseHalt s).stack = s.stack := rfl
@[simp] theorem raiseHalt_sp (s : State) : (raiseHalt s).sp = s.sp := rfl
@[simp] theorem raiseHalt_dt (s : State) : (raiseHalt s).dt = s.dt := rfl
@[simp] theorem raiseHalt_st (s : State) : (raiseHalt s).st = s.st := rfl
@[simp] theorem raiseHalt_halted (s : State) : (raiseHalt s).halted = true := rfl
@[simp] theorem raiseHalt_mem (s : State) : (raiseHalt s).mem = s.mem := rfl
@[simp] theorem raiseHalt_key (s : State) : (raiseHalt s).key = s.key := rfl
@[simp] theorem raiseHalt_fb (s : State) : (raiseHalt s).fb = s.fb := rfl
@[simp] theorem raiseHalt_draws (s : State) : (raiseHalt s).draws = s.draws := rfl

/-! ### memoryReset -/

@[simp] theorem memoryReset_v (s : State) : (memoryReset s).v = s.v := rfl
@[simp] theorem memoryReset_i (s : State) : (memoryReset s).i = s.i := rfl
@[simp] theorem memoryReset_pc (s : State) : (memoryReset s).pc = s.pc := rfl
@[simp] theorem memoryReset_stack (s : State) : (memoryReset s).stack = s.stack := rfl
@[simp] theorem memoryReset_sp (s : State) : (memoryReset s).sp = s.sp := rfl
@[simp] theorem memoryReset_dt (s : State) : (memoryReset s).dt = s.dt := rfl
@[simp] theorem memoryReset_st (s : State) : (memoryReset s).st = s.st := rfl
@[simp] theorem memoryReset_halted (s : State) : (memoryReset s).halted = s.halted := rfl
@[simp] theorem memoryReset_mem (s : State) : (memoryReset s).mem = [] := rfl
@[simp] theorem memoryReset_key (s : State) : (memoryReset s).key = s.key := rfl
@[simp] theorem memoryReset_fb (s : State) : (memoryReset s).fb = s.fb := rfl
@[simp] theorem memoryReset_draws (s : State) : (memoryReset s).draws = s.draws := rfl

/-! ### keypadReset -/

@[simp] theorem keypadReset_v (s : State) : (keypadReset s).v = s.v := rfl
@[simp] theorem keypadReset_i (s : State) : (keypadReset s).i = s.i := rfl
@[simp] theorem keypadReset_pc (s : State) : (keypadReset s).pc = s.pc := rfl
@[simp] theorem keypadReset_stack (s : State) : (keypadReset s).stack = s.stack := rfl
@[simp] theorem keypadReset_sp (s : State) : (keypadReset s).sp = s.sp := rfl
@[simp] theorem keypadReset_dt (s : State) : (keypadReset s).dt = s.dt := rfl
@[simp] theorem keypadReset_st (s : State) : (keypadReset s).st = s.st := rfl
@[simp] theorem keypadReset_halted (s : State) : (keypadReset s).halted = s.halted := rfl
@[simp] theorem keypadReset_mem (s : State) : (keypadReset s).mem = s.mem := rfl
@[simp] theorem keypadReset_key (s : State) : (keypadReset s).key = Vector.replicate 16 false := rfl
@[simp] theorem keypadReset_fb (s : State) : (keypadReset s).fb = s.fb := rfl
@[simp] theorem keypadReset_draws (s : State) : (keypadReset s).draws = s.draws := rfl

/-! ### tick -/

@[simp] theorem tick_v (s : State) : (tick s).v = s.v := rfl
@[simp] theorem tick_i (s : State) : (tick s).i = s.i := rfl
@[simp] theorem tick_pc (s : State) : (tick s).pc = s.pc := rfl
@[simp] theorem tick_stack (s : State) : (tick s).stack = s.stack := rfl
@[simp] theorem tick_sp (s : State) : (tick s).sp = s.sp := rfl
@[simp] theorem tick_dt (s : State) : (tick s).dt = countDown s.dt := rfl
@[simp] theorem tick_st (s : State) : (tick s).st = countDown s.st := rfl
@[simp] theorem tick_halted (s : State) : (tick s).halted = s.halted := rfl
@[simp] theorem tick_mem (s : State) : (tick s).mem = s.mem := rfl
@[simp] theorem tick_key (s : State) : (tick s).key = s.key := rfl
@[simp] theorem tick_fb (s : State) : (tick s).fb = s.fb := rfl
@[simp] theorem tick_draws (s : State) : (tick s).draws = s.draws := rfl

/-! ### cpuReset -/

@[simp] theorem cpuReset_v (s : State) (cfg : Config) : (cpuReset s cfg).v = cfg.resetV := rfl
@[simp] theorem cpuReset_i (s : State) (cfg : Config) : (cpuReset s cfg).i = cfg.resetI := rfl
@[simp] theorem cpuReset_pc (s : State) (cfg : Config) : (cpuReset s cfg).pc = BitVec.ofNat 16 programOrigin := rfl
@[simp] theorem cpuReset_stack (s : State) (cfg : Config) : (cpuReset s cfg).stack = cfg.resetStack := rfl
@[simp] theorem cpuReset_sp (s : State) (cfg : Config) : (cpuReset s cfg).sp = cfg.resetSp := rfl
@[simp] theorem cpuReset_dt (s : State) (cfg : Config) : (cpuReset s cfg).dt = cfg.resetDt := rfl
@[simp] theorem cpuReset_st (s : State) (cfg : Config) : (cpuReset s cfg).st = cfg.resetSt := rfl
@[simp] theorem cpuReset_halted (s : State) (cfg : Config) : (cpuReset s cfg).halted = false := rfl
@[simp] theorem cpuReset_mem (s : State) (cfg : Config) : (cpuReset s cfg).mem = s.mem := rfl
@[simp] theorem cpuReset_key (s : State) (cfg : Config) : (cpuReset s cfg).key = s.key := rfl
@[simp] theorem cpuReset_fb (s : State) (cfg : Config) : (cpuReset s cfg).fb = s.fb := rfl
@[simp] theorem cpuReset_draws (s : State) (cfg : Config) : (cpuReset s cfg).draws = s.draws := rfl

/-! ### State.resetWith, State.reset -/

@[simp] theorem State.resetWith_v (cfg : Config) : (State.resetWith cfg).v = cfg.resetV := rfl
@[simp] theorem State.resetWith_i (cfg : Config) : (State.resetWith cfg).i = cfg.resetI := rfl
@[simp] theorem State.resetWith_pc (cfg : Config) : (State.resetWith cfg).pc = BitVec.ofNat 16 programOrigin := rfl
@[simp] theorem State.resetWith_stack (cfg : Config) : (State.resetWith cfg).stack = cfg.resetStack := rfl
@[simp] theorem State.resetWith_sp (cfg : Config) : (State.resetWith cfg).sp = cfg.resetSp := rfl
@[simp] theorem State.resetWith_dt (cfg : Config) : (State.resetWith cfg).dt = cfg.resetDt := rfl
@[simp] theorem State.resetWith_st (cfg : Config) : (State.resetWith cfg).st = cfg.resetSt := rfl
@[simp] theorem State.resetWith_halted (cfg : Config) : (State.resetWith cfg).halted = false := rfl
@[simp] theorem State.resetWith_mem (cfg : Config) : (State.resetWith cfg).mem = [] := rfl
@[simp] theorem State.resetWith_key (cfg : Config) : (State.resetWith cfg).key = Vector.replicate 16 false := rfl
@[simp] theorem State.resetWith_fb (cfg : Config) : (State.resetWith cfg).fb = Vector.replicate 32 (Vector.replicate 64 false) := rfl
@[simp] theorem State.resetWith_draws (cfg : Config) : (State.resetWith cfg).draws = 0 := rfl
@[simp] theorem State.reset_v : State.reset.v = config.resetV := rfl
@[simp] theorem State.reset_i : State.reset.i = config.resetI := rfl
@[simp] theorem State.reset_pc : State.reset.pc = BitVec.ofNat 16 programOrigin := rfl
@[simp] theorem State.reset_stack : State.reset.stack = config.resetStack := rfl
@[simp] theorem State.reset_sp : State.reset.sp = config.resetSp := rfl
@[simp] theorem State.reset_dt : State.reset.dt = config.resetDt := rfl
@[simp] theorem State.reset_st : State.reset.st = config.resetSt := rfl
@[simp] theorem State.reset_halted : State.reset.halted = false := rfl
@[simp] theorem State.reset_mem : State.reset.mem = [] := rfl
@[simp] theorem State.reset_key : State.reset.key = Vector.replicate 16 false := rfl
@[simp] theorem State.reset_fb : State.reset.fb = Vector.replicate 32 (Vector.replicate 64 false) := rfl
@[simp] theorem State.reset_draws : State.reset.draws = 0 := rfl

/-! ### skipIf -/

@[simp] theorem skipIf_v (c : Bool) (s : State) : (skipIf c s).v = s.v := by cases c <;> rfl
@[simp] theorem skipIf_i (c : Bool) (s : State) : (skipIf c s).i = s.i := by cases c <;> rfl
@[simp] theorem skipIf_pc (c : Bool) (s : State) :
    (skipIf c s).pc = if c then s.pc + 2 else s.pc := by cases c <;> rfl
@[simp] theorem skipIf_stack (c : Bool) (s : State) : (skipIf c s).stack = s.stack := by cases c <;> rfl
@[simp] theorem skipIf_sp (c : Bool) (s : State) : (skipIf c s).sp = s.sp := by cases c <;> rfl
@[simp] theorem skipIf_dt (c : Bool) (s : State) : (skipIf c s).dt = s.dt := by cases c <;> rfl
@[simp] theorem skipIf_st (c : Bool) (s : State) : (skipIf c s).st = s.st := by cases c <;> rfl
@[simp] theorem skipIf_halted (c : Bool) (s : State) : (skipIf c s).halted = s.halted := by cases c <;> rfl
@[simp] theorem skipIf_mem (c : Bool) (s : State) : (skipIf c s).mem = s.mem := by cases c <;> rfl
@[simp] theorem skipIf_key (c : Bool) (s : State) : (skipIf c s).key = s.key := by cases c <;> rfl
@[simp] theorem skipIf_fb (c : Bool) (s : State) : (skipIf c s).fb = s.fb := by cases c <;> rfl
@[simp] theorem skipIf_draws (c : Bool) (s : State) : (skipIf c s).draws = s.draws := by cases c <;> rfl

end Sys2Proof.Machine
end

