-- ==== Sys2Proof/Laws/Memory.lean ====
section
/-! SUPPORT. Memory: every operation keeps the canonical form; a read after writes; equal reads make equal canonical
memories (spec 20_memory R52 to R54, R60); for every FONT (00_scope R7). -/

namespace Sys2Proof.Machine

variable {cfg : Config}

/-! ### Addresses wrap (R52) -/

theorem memRead_mod (m : Memory) (a : Nat) : memRead m (a % memSize) cfg = memRead m a cfg := by
  simp [memRead]

theorem memWrite_mod (m : Memory) (a : Nat) (b : Byte) : memWrite m (a % memSize) b cfg = memWrite m a b cfg := by
  simp [memWrite]

/-! ### The canonical form -/

theorem memSortedFrom_cons {lo k : Nat} {b : Byte} {m : Memory} :
    memSortedFrom lo ((k, b) :: m) cfg = true ↔
      lo ≤ k ∧ k < memSize ∧ b ≠ unlisted k cfg ∧ memSortedFrom (k + 1) m cfg = true := by
  simp [memSortedFrom, and_assoc]

theorem memSortedFrom_mono {lo lo' : Nat} {m : Memory} (h : memSortedFrom lo m cfg = true) (hle : lo' ≤ lo) :
    memSortedFrom lo' m cfg = true := by
  cases m with
  | nil => rfl
  | cons c m =>
    obtain ⟨k, b⟩ := c
    rw [memSortedFrom_cons] at h ⊢
    exact ⟨by omega, h.2⟩

theorem memLookup_below {lo a : Nat} {m : Memory} (h : memSortedFrom lo m cfg = true) (ha : a < lo) :
    memLookup m a = none := by
  induction m generalizing lo with
  | nil => rfl
  | cons c m ih =>
    obtain ⟨k, b⟩ := c
    rw [memSortedFrom_cons] at h
    have hk : k ≠ a := by omega
    simp [memLookup, hk, ih h.2.2.2 (by omega)]

theorem memPut_sorted {lo a : Nat} {b : Byte} {m : Memory} (h : memSortedFrom lo m cfg = true) (hlo : lo ≤ a)
    (ha : a < memSize) : memSortedFrom lo (memPut m a b cfg) cfg = true := by
  induction m generalizing lo with
  | nil =>
    unfold memPut
    split
    · rfl
    · rename_i hb
      rw [memSortedFrom_cons]
      exact ⟨hlo, ha, hb, rfl⟩
  | cons c m ih =>
    obtain ⟨k, c⟩ := c
    have h' := memSortedFrom_cons.1 h
    unfold memPut
    split
    · split
      · exact h
      · rename_i hlt hb
        rw [memSortedFrom_cons]
        exact ⟨hlo, ha, hb, memSortedFrom_cons.2 ⟨by omega, h'.2⟩⟩
    · split
      · rename_i hnlt heq
        subst heq
        split
        · exact memSortedFrom_mono h'.2.2.2 (by omega)
        · rename_i hb
          exact memSortedFrom_cons.2 ⟨hlo, ha, hb, h'.2.2.2⟩
      · exact memSortedFrom_cons.2 ⟨h'.1, h'.2.1, h'.2.2.1, ih h'.2.2.2 (by omega)⟩

theorem memWrite_wf {m : Memory} (h : m.wf cfg = true) (a : Nat) (b : Byte) : (memWrite m a b cfg).wf cfg = true :=
  memPut_sorted h (Nat.zero_le _) (Nat.mod_lt _ (by decide))

theorem memWriteBytes_wf {m : Memory} (h : m.wf cfg = true) (a : Nat) (bs : List Byte) :
    (memWriteBytes m a bs cfg).wf cfg = true := by
  induction bs generalizing m a with
  | nil => exact h
  | cons b bs ih => exact ih (memWrite_wf h a b) (a + 1)

theorem memory_nil_wf : Memory.wf [] cfg = true := rfl

theorem placeWord_wf {s : State} (h : s.mem.wf = true) (op : Word) : (placeWord s op).mem.wf = true :=
  memWriteBytes_wf h _ _

/-! ### Reads after writes -/

theorem memRead_nil (a : Nat) : memRead [] a cfg = unlisted (a % memSize) cfg := rfl

theorem memLookup_memPut {lo a : Nat} {b : Byte} {m : Memory} (h : memSortedFrom lo m cfg = true) (a' : Nat) :
    (memLookup (memPut m a b cfg) a').getD (unlisted a' cfg) =
      if a' = a then b else (memLookup m a').getD (unlisted a' cfg) := by
  induction m generalizing lo with
  | nil =>
    unfold memPut
    by_cases haa : a' = a
    · subst haa
      split <;> simp_all [memLookup]
    · split <;> simp [memLookup, Ne.symm haa]
  | cons c m ih =>
    obtain ⟨k, c⟩ := c
    have h' := memSortedFrom_cons.1 h
    have ih := ih h'.2.2.2
    unfold memPut
    by_cases hlt : a < k
    · have hnone : memLookup ((k, c) :: m) a = none :=
        memLookup_below (lo := k) (memSortedFrom_cons.2 ⟨le_rfl, h'.2⟩) hlt
      by_cases haa : a' = a
      · subst haa
        by_cases hb : b = unlisted a' cfg
        · simp [hlt, hb, hnone]
        · simp [hlt, hb, memLookup]
      · by_cases hb : b = unlisted a cfg
        · simp [hlt, hb, haa]
        · simp [hlt, hb, haa, memLookup, Ne.symm haa]
    · by_cases heq : a = k
      · subst heq
        have hnone : memLookup m a = none := memLookup_below h'.2.2.2 (by omega)
        by_cases haa : a' = a
        · subst haa
          by_cases hb : b = unlisted a' cfg
          · simp [hb, hnone]
          · simp [hb, memLookup]
        · by_cases hb : b = unlisted a cfg
          · simp [hb, haa, memLookup, Ne.symm haa]
          · simp [hb, haa, memLookup, Ne.symm haa]
      · by_cases hk : k = a'
        · subst hk
          simp [hlt, heq, memLookup, Ne.symm heq]
        · simp [hlt, heq, memLookup, hk, ih]

/-- `MemWrite(a, 1, b)` sets the byte at `a mod 4096` and changes no other (R54). -/
theorem memRead_memWrite {m : Memory} (h : m.wf cfg = true) (a a' : Nat) (b : Byte) :
    memRead (memWrite m a b cfg) a' cfg = if a' % memSize = a % memSize then b else memRead m a' cfg :=
  memLookup_memPut h (a' % memSize)

theorem memRead_memWrite_ne {m : Memory} (h : m.wf cfg = true) {a a' : Nat} (b : Byte)
    (hne : a' % memSize ≠ a % memSize) : memRead (memWrite m a b cfg) a' cfg = memRead m a' cfg := by
  rw [memRead_memWrite h, if_neg hne]

/-- Outside the addresses of a run of byte writes every byte reads as before. -/
theorem memRead_memWriteBytes_outside {m : Memory} (h : m.wf cfg = true) (a a' : Nat) (bs : List Byte)
    (hout : ∀ k < bs.length, a' % memSize ≠ (a + k) % memSize) :
    memRead (memWriteBytes m a bs cfg) a' cfg = memRead m a' cfg := by
  induction bs generalizing m a with
  | nil => rfl
  | cons b bs ih =>
    have h0 : a' % memSize ≠ a % memSize := by simpa using hout 0 (by simp)
    have htail : ∀ k < bs.length, a' % memSize ≠ (a + 1 + k) % memSize := by
      intro k hk
      have := hout (k + 1) (by simpa using hk)
      rwa [show a + (k + 1) = a + 1 + k by omega] at this
    rw [memWriteBytes, ih (memWrite_wf h a b) (a + 1) htail, memRead_memWrite_ne h b h0]

/-- A run of byte writes no longer than memory puts byte `k` at the `k`-th address. -/
theorem memRead_memWriteBytes_inside {m : Memory} (h : m.wf cfg = true) (a k : Nat) (bs : List Byte)
    (hk : k < bs.length) (hlen : bs.length ≤ memSize) :
    memRead (memWriteBytes m a bs cfg) (a + k) cfg = bs[k] := by
  induction bs generalizing m a k with
  | nil => simp at hk
  | cons b bs ih =>
    simp only [List.length_cons] at hk hlen
    have hw := memWrite_wf h a b
    cases k with
    | zero =>
      rw [memWriteBytes, memRead_memWriteBytes_outside hw (a + 1) (a + 0) bs, memRead_memWrite h]
      · simp
      · intro j hj
        simp only [memSize] at *
        omega
    | succ k =>
      have := ih hw (a + 1) k (by omega) (by omega)
      rw [memWriteBytes, show a + (k + 1) = a + 1 + k by omega, this]
      simp

/-! ### Equal reads, equal memories -/

theorem memLookup_some_ne_unlisted {lo a : Nat} {b : Byte} {m : Memory} (h : memSortedFrom lo m cfg = true)
    (hb : memLookup m a = some b) : b ≠ unlisted a cfg ∧ lo ≤ a ∧ a < memSize := by
  induction m generalizing lo with
  | nil => simp [memLookup] at hb
  | cons c m ih =>
    obtain ⟨k, c⟩ := c
    have h' := memSortedFrom_cons.1 h
    unfold memLookup at hb
    split at hb
    · rename_i hk
      subst hk
      cases hb
      exact ⟨h'.2.2.1, h'.1, h'.2.1⟩
    · obtain ⟨h1, h2, h3⟩ := ih h'.2.2.2 hb
      exact ⟨h1, by omega, h3⟩

theorem memLookup_ext {lo : Nat} {m m' : Memory} (h : memSortedFrom lo m cfg = true)
    (h' : memSortedFrom lo m' cfg = true) (heq : ∀ a, memLookup m a = memLookup m' a) : m = m' := by
  induction m generalizing lo m' with
  | nil =>
    cases m' with
    | nil => rfl
    | cons c m' =>
      obtain ⟨k, b⟩ := c
      simpa [memLookup] using heq k
  | cons c m ih =>
    obtain ⟨k, b⟩ := c
    have hm := memSortedFrom_cons.1 h
    cases m' with
    | nil => simpa [memLookup] using heq k
    | cons c' m' =>
      obtain ⟨k', b'⟩ := c'
      have hm' := memSortedFrom_cons.1 h'
      have hkk : k = k' := by
        rcases Nat.lt_trichotomy k k' with hlt | heqk | hgt
        · have hnone := memLookup_below (memSortedFrom_cons.2 ⟨le_rfl, hm'.2⟩) hlt
          have := heq k
          rw [hnone] at this
          simp [memLookup] at this
        · exact heqk
        · have hnone := memLookup_below (memSortedFrom_cons.2 ⟨le_rfl, hm.2⟩) hgt
          have := heq k'
          rw [hnone] at this
          simp [memLookup] at this
      subst hkk
      have hbb : b = b' := by simpa [memLookup] using heq k
      subst hbb
      congr 1
      refine ih hm.2.2.2 hm'.2.2.2 fun a => ?_
      by_cases hak : k = a
      · subst hak
        rw [memLookup_below hm.2.2.2 (by omega), memLookup_below hm'.2.2.2 (by omega)]
      · simpa [memLookup, hak] using heq a

/-- Two canonical memories in which every byte reads the same are the same memory. -/
theorem memory_ext {m m' : Memory} (h : m.wf cfg = true) (h' : m'.wf cfg = true)
    (heq : ∀ a, memRead m a cfg = memRead m' a cfg) : m = m' := by
  refine memLookup_ext h h' fun a => ?_
  by_cases ha : a < memSize
  · have hr := heq a
    simp only [memRead, Nat.mod_eq_of_lt ha] at hr
    cases hl : memLookup m a with
    | none =>
      cases hl' : memLookup m' a with
      | none => rfl
      | some b =>
        rw [hl, hl'] at hr
        exact absurd hr.symm (memLookup_some_ne_unlisted h' hl').1
    | some b =>
      cases hl' : memLookup m' a with
      | none =>
        rw [hl, hl'] at hr
        exact absurd hr (memLookup_some_ne_unlisted h hl).1
      | some b' =>
        rw [hl, hl'] at hr
        exact congrArg some hr
  · have e (x : Memory) (hx : x.wf cfg = true) : memLookup x a = none := by
      cases hl : memLookup x a with
      | none => rfl
      | some b => exact absurd (memLookup_some_ne_unlisted hx hl).2.2 ha
    rw [e m h, e m' h']

end Sys2Proof.Machine
end

