-- ==== Sys2Proof/Laws/Config.lean ====
section
/-! SUPPORT. The settings of the modelled machine, one lemma each (spec 00_scope R7). -/

namespace Sys2Proof.Machine

@[simp] theorem config_resetV : config.resetV = Vector.replicate 16 0 := rfl
@[simp] theorem config_resetI : config.resetI = 0 := rfl
@[simp] theorem config_resetSp : config.resetSp = 0 := rfl
@[simp] theorem config_resetStack : config.resetStack = Vector.replicate 16 0 := rfl
@[simp] theorem config_resetDt : config.resetDt = 0 := rfl
@[simp] theorem config_resetSt : config.resetSt = 0 := rfl
@[simp] theorem config_subEqFlag : config.subEqFlag = false := rfl
@[simp] theorem config_annn : config.annn = .loadIndex := rfl
@[simp] theorem config_retUnderflow : config.retUnderflow = .wrap := rfl
@[simp] theorem config_pcGuard : config.pcGuard = 0x1000 := rfl

/-- FONT is the 16 glyphs one after the other, 80 bytes (R6 `FONT_SIZE`). -/
theorem config_font : config.font.toList = fontGlyphs.flatten := by decide

end Sys2Proof.Machine
end

