-- ==== Sys2Proof/Laws/Ops.lean ====
section
/-! SUPPORT. What each shared operation over registers, flags, keys and timers does, said once. -/

namespace Sys2Proof.Machine

/-! ### Registers (spec 10_state R21) -/

theorem getV_setV (s : State) (x r : Reg) (b : Byte) : getV (setV s x b) r = if r = x then b else getV s r := by
  by_cases h : r = x
  · subst h
    simp [getV, setV]
  · have hv : x.val ≠ r.val := fun e => h (Fin.ext e.symm)
    simp [getV, setV, h, Vector.getElem_set_ne _ _ hv]

@[simp] theorem getV_setV_same (s : State) (x : Reg) (b : Byte) : getV (setV s x b) x = b := by
  simp [getV_setV]

theorem getV_setV_ne (s : State) {x r : Reg} (b : Byte) (h : r ≠ x) : getV (setV s x b) r = getV s r := by
  simp [getV_setV, h]

/-- A register reads the register file alone: an update that keeps the file keeps every register. -/
theorem getV_congr {s t : State} (h : t.v = s.v) (r : Reg) : getV t r = getV s r := by
  simp only [getV, h]

@[simp] theorem getV_setI (s : State) (a : Addr) (r : Reg) : getV (setI s a) r = getV s r := rfl
@[simp] theorem getV_setDt (s : State) (b : Byte) (r : Reg) : getV (setDt s b) r = getV s r := rfl
@[simp] theorem getV_setSt (s : State) (b : Byte) (r : Reg) : getV (setSt s b) r = getV s r := rfl
@[simp] theorem getV_setPc (s : State) (w : Word) (r : Reg) : getV (setPc s w) r = getV s r := rfl
@[simp] theorem getV_advancePc (s : State) (r : Reg) : getV (advancePc s) r = getV s r := rfl
@[simp] theorem getV_rewindPc (s : State) (r : Reg) : getV (rewindPc s) r = getV s r := rfl
@[simp] theorem getV_pushReturn (s : State) (r : Reg) : getV (pushReturn s) r = getV s r := rfl
@[simp] theorem getV_popReturn (s : State) (r : Reg) : getV (popReturn s) r = getV s r := rfl
@[simp] theorem getV_nextDraw (s : State) (r : Reg) : getV (nextDraw s) r = getV s r := rfl
@[simp] theorem getV_setMem (s : State) (m : Memory) (r : Reg) : getV (setMem s m) r = getV s r := rfl
@[simp] theorem getV_setFb (s : State) (fb : Plane) (r : Reg) : getV (setFb s fb) r = getV s r := rfl
@[simp] theorem getV_raiseHalt (s : State) (r : Reg) : getV (raiseHalt s) r = getV s r := rfl
@[simp] theorem getV_tick (s : State) (r : Reg) : getV (tick s) r = getV s r := rfl
@[simp] theorem getV_skipIf (c : Bool) (s : State) (r : Reg) : getV (skipIf c s) r = getV s r :=
  getV_congr (skipIf_v c s) r

/-! ### Flags (10_state R23, R24) -/

@[simp] theorem flagByte_true : flagByte true = 1 := rfl
@[simp] theorem flagByte_false : flagByte false = 0 := rfl

/-- A flag is exactly 0 or 1. -/
theorem flagByte_cases (c : Bool) : flagByte c = 0 ∨ flagByte c = 1 := by cases c <;> decide

theorem getV_setFlag (s : State) (c : Bool) (r : Reg) :
    getV (setFlag s c) r = if r = regVF then flagByte c else getV s r := getV_setV s regVF r (flagByte c)

/-- The flag is written last: VF is the flag whatever `x` is; `V[x]` is the result where `x` is not VF (R24). -/
theorem getV_setResultAndFlag (s : State) (x r : Reg) (b : Byte) (c : Bool) :
    getV (setResultAndFlag s x b c) r =
      if r = regVF then flagByte c else if r = x then b else getV s r := by
  rw [setResultAndFlag, getV_setFlag, getV_setV]

/-- Writing a result and a flag changes the register file only. -/
theorem setResultAndFlag_eq (s : State) (x : Reg) (b : Byte) (c : Bool) :
    setResultAndFlag s x b c = { s with v := (setResultAndFlag s x b c).v } := rfl

theorem setFlag_eq (s : State) (c : Bool) : setFlag s c = { s with v := (setFlag s c).v } := rfl

/-! ### Skips (41_skips R114) -/

@[simp] theorem skipIf_true (s : State) : skipIf true s = setPc s (s.pc + 2) := rfl
@[simp] theorem skipIf_false (s : State) : skipIf false s = s := rfl

/-- A skip changes PC only, by 2 where the condition holds. -/
theorem skipIf_eq (c : Bool) (s : State) : skipIf c s = { s with pc := if c then s.pc + 2 else s.pc } := by
  cases c <;> rfl

/-- The rewind undoes the fetch advance (45 R166). -/
theorem rewindPc_advancePc (s : State) : rewindPc (advancePc s) = s := by
  simp [rewindPc, advancePc, setPc]

/-! ### Register dump and load (47 R184, R185) -/

theorem regsUpTo_length (s : State) (x : Reg) : (regsUpTo s x).length = x.val + 1 := by
  simp [regsUpTo]

theorem regsUpTo_getElem (s : State) (x r : Reg) (h : r.val < (regsUpTo s x).length) :
    (regsUpTo s x)[r.val] = getV s r := by
  simp [regsUpTo, getV]

/-- The load gives `V[r]` the byte at `base + r` for `r < n` and keeps the others. -/
theorem loadRegsFrom_getElem (m : Memory) (base n : Nat) (v : Vector Byte 16) (r : Nat) (hr : r < 16)
    (cfg : Config) : (loadRegsFrom m base n v cfg)[r] = if r < n then memRead m (base + r) cfg else v[r] := by
  induction n with
  | zero => simp [loadRegsFrom]
  | succ n ih =>
    simp only [loadRegsFrom]
    by_cases h : n = r
    · subst h
      simp
    · rw [Vector.getElem_setIfInBounds_ne _ h, ih]
      have : r < n + 1 ↔ r < n := by omega
      simp [this]

theorem getV_loadRegs (s : State) (m : Memory) (base n : Nat) (r : Reg) (cfg : Config) :
    getV (setRegs s (loadRegsFrom m base n s.v cfg)) r =
      if r.val < n then memRead m (base + r.val) cfg else getV s r :=
  loadRegsFrom_getElem m base n s.v r.val r.isLt cfg

/-! ### BCD (47 R182) -/

theorem bcdDigits_length (b : Byte) : (bcdDigits b).length = 3 := rfl

/-! ### Keys (45 R162, R166) -/

theorem keyAt_of_lt (s : State) {k : Nat} (h : k < 16) : keyAt s k = s.key[k] := by simp [keyAt, h]

theorem keyAt_of_ge (s : State) {k : Nat} (h : 16 ≤ k) : keyAt s k = false := by
  simp [keyAt, Nat.not_lt.2 h]

/-- Keys read the keypad register alone. -/
theorem keyAt_congr {s t : State} (h : t.key = s.key) (k : Nat) : keyAt t k = keyAt s k := by
  simp only [keyAt, h]

theorem firstKey_congr {s t : State} (h : t.key = s.key) : firstKey t = firstKey s := by
  have : keyAt t = keyAt s := funext (keyAt_congr h)
  simp only [firstKey, this]

/-- The scan finds `k` exactly when `k` is the lowest pressed key of 0 to 14. -/
theorem firstKey_eq_some {s : State} {k : Nat} :
    firstKey s = some k ↔ k < keyWaitCount ∧ keyAt s k = true ∧ ∀ j < k, keyAt s j = false := by
  simp only [firstKey, List.find?_range_eq_some, List.mem_range]
  constructor
  · rintro ⟨h1, h2, h3⟩
    exact ⟨h2, h1, fun j hj => by simpa using h3 j hj⟩
  · rintro ⟨h1, h2, h3⟩
    exact ⟨h2, h1, fun j hj => by simpa using h3 j hj⟩

/-- The scan finds nothing exactly when no key of 0 to 14 is pressed. -/
theorem firstKey_eq_none {s : State} : firstKey s = none ↔ ∀ k < keyWaitCount, keyAt s k = false := by
  simp [firstKey, List.find?_eq_none]

/-! ### Timers (46 R170) -/

theorem countDown_toNat (t : Byte) : (countDown t).toNat = t.toNat - 1 := by
  unfold countDown
  split <;> bv_omega

/-! ### Stack (40 R103, R105) -/

/-- A push writes the slot after the pointer, modulo 16, and no other. -/
theorem pushReturn_slot (s : State) (k : Reg) :
    (pushReturn s).stack[k.val] = if k = s.sp + 1 then s.pc else s.stack[k.val] := by
  by_cases h : k = s.sp + 1
  · subst h
    simp
  · have hv : (s.sp + 1).val ≠ k.val := fun e => h (Fin.ext e.symm)
    simp only [pushReturn_stack, h, if_false]
    exact Vector.getElem_set_ne _ _ hv

end Sys2Proof.Machine
end

