-- ==== Sys2Proof/Laws/Step.lean ====
section
/-! SUPPORT. What one STEP can do, said once (spec 40 R100): every later proof about a step goes through
`step_cases`. -/

namespace Sys2Proof.Machine

theorem stalled_iff (s : State) : stalled s = true ↔ 0x1000 ≤ s.pc.toNat :=
  decide_eq_true_iff

theorem stalled_eq_false (s : State) : stalled s = false ↔ s.pc.toNat < 0x1000 :=
  decide_eq_false_iff_not.trans Nat.not_le

/-- The step cycle of the modelled machine, written out (40 R100). -/
theorem step_eq (s : State) :
    step s =
      if s.halted then .next s
      else if stalled s then .next s
      else
        match decodeWord (fetchWord s) with
        | .ok i => exec i (advancePc s)
        | .error _ => .next (raiseHalt (advancePc s)) := rfl

/-- A step that answers a next state, over any way to execute and under any parameters, did nothing because halted, did
nothing because stalled, executed the decoded instruction after the advance, or halted on an illegal word after the
advance. -/
theorem stepBy_cases {run : Instr → State → Host.Outcome State Fault Refusal} {s t : State} {cfg : Config}
    (h : stepBy run s cfg = .next t) :
    (s.halted = true ∧ t = s) ∨
    (s.halted = false ∧ stalled s cfg = true ∧ t = s) ∨
    (s.halted = false ∧ stalled s cfg = false ∧
      ∃ i, decodeWordWith cfg.annn (fetchWord s cfg) = .ok i ∧ run i (advancePc s) = .next t) ∨
    (s.halted = false ∧ stalled s cfg = false ∧
      ∃ e, decodeWordWith cfg.annn (fetchWord s cfg) = .error e ∧ t = raiseHalt (advancePc s)) := by
  unfold stepBy at h
  split at h
  · rename_i hh
    exact .inl ⟨hh, by cases h; rfl⟩
  · rename_i hh
    have hh : s.halted = false := by simpa using hh
    split at h
    · rename_i hs
      exact .inr (.inl ⟨hh, hs, by cases h; rfl⟩)
    · rename_i hs
      have hs : stalled s cfg = false := by simpa using hs
      split at h
      · rename_i i hd
        exact .inr (.inr (.inl ⟨hh, hs, i, hd, h⟩))
      · rename_i e hd
        exact .inr (.inr (.inr ⟨hh, hs, e, hd, by cases h; rfl⟩))

/-- The same of a step of the modelled machine. -/
theorem step_cases {s t : State} (h : step s = .next t) :
    (s.halted = true ∧ t = s) ∨
    (s.halted = false ∧ stalled s = true ∧ t = s) ∨
    (s.halted = false ∧ stalled s = false ∧
      ∃ i, decodeWord (fetchWord s) = .ok i ∧ exec i (advancePc s) = .next t) ∨
    (s.halted = false ∧ stalled s = false ∧
      ∃ e, decodeWord (fetchWord s) = .error e ∧ t = raiseHalt (advancePc s)) := stepBy_cases h

/-- The word placed where the next fetch reads is the word fetched, at the edge of memory too (20 R53, R57). -/
theorem fetchWord_placeWord {s : State} (h : s.mem.wf = true) (op : Word) : fetchWord (placeWord s op) = op := by
  have h0 := memRead_memWriteBytes_inside h s.pc.toNat 0 [op.extractLsb' 8 8, op.extractLsb' 0 8] (by simp)
    (by simp)
  have h1 := memRead_memWriteBytes_inside h s.pc.toNat 1 [op.extractLsb' 8 8, op.extractLsb' 0 8] (by simp)
    (by simp)
  have hr : fetchWord (placeWord s op) = op.extractLsb' 8 8 ++ op.extractLsb' 0 8 := by
    simp only [Nat.add_zero] at h0
    simp only [fetchWord, placeWord, setMem_mem, setMem_pc, memReadWord, h0, h1]
    rfl
  rw [hr]
  refine BitVec.eq_of_getLsbD_eq fun i hi => ?_
  rw [BitVec.getLsbD_append]
  by_cases h8 : i < 8
  · simp [h8]
  · simp [h8, show i - 8 < 8 by omega, show 8 + (i - 8) = i by omega]

/-- A CPU that can fetch is left as it is. -/
theorem readyToFetch_of_running {s : State} (hh : s.halted = false) (hs : stalled s = false) :
    readyToFetch s = s := by
  obtain ⟨⟨⟩, _⟩ := s
  simp_all [readyToFetch]

end Sys2Proof.Machine
end

