-- ==== Sys2Proof/Laws/Arch.lean ====
section
/-! SUPPORT. The state of the core (`Arch`, spec 10_state R20) is enough: what an instruction or a step does to it depends
on nothing beside it but the random byte that is the input of `Cxkk` (R39(b), 42 R123). -/

namespace Sys2Proof.Machine

/-- Using up a byte of the random input changes nothing of the core. -/
theorem nextDraw_toArch (s : State) : (nextDraw s).toArch = s.toArch := rfl

/-- An instruction takes equal states of the core, given equal random input, to equal states of the core. -/
theorem exec_arch {i : Instr} {s s' t : State} (ha : s'.toArch = s.toArch)
    (hr : Config.rnd s'.draws = Config.rnd s.draws) (h : exec i s = .next t) :
    ∃ t' : State, exec i s' = .next t' ∧ t'.toArch = t.toArch := by
  obtain ⟨a, d⟩ := s
  obtain ⟨a', d'⟩ := s'
  obtain rfl : a' = a := ha
  cases i
  case ldVxK x =>
    simp only [exec, execLdVxK, show firstKey ⟨a', d'⟩ = firstKey ⟨a', d⟩ from rfl] at h ⊢
    split at h <;> cases h <;> exact ⟨_, rfl, rfl⟩
  case rnd x kk =>
    cases h
    refine ⟨_, rfl, ?_⟩
    simp only [show Config.rnd d' = Config.rnd d from hr]
    rfl
  all_goals
    cases h
    first
    | exact ⟨_, rfl, rfl⟩
    | exact ⟨_, rfl, by simp only [skipIf_eq]; rfl⟩

/-- So does a step. -/
theorem step_arch {s s' t : State} (ha : s'.toArch = s.toArch)
    (hr : Config.rnd s'.draws = Config.rnd s.draws) (h : step s = .next t) :
    ∃ t' : State, step s' = .next t' ∧ t'.toArch = t.toArch := by
  obtain ⟨a, d⟩ := s
  obtain ⟨a', d'⟩ := s'
  obtain rfl : a' = a := ha
  have hs : stalled ⟨a', d'⟩ = stalled ⟨a', d⟩ := rfl
  have hf : fetchWord ⟨a', d'⟩ = fetchWord ⟨a', d⟩ := rfl
  simp only [step, stepBy, hs, hf] at h ⊢
  split at h
  · cases h; exact ⟨⟨a', d'⟩, if_pos ‹_›, rfl⟩
  · rw [if_neg ‹_›]
    split at h
    · cases h; exact ⟨⟨a', d'⟩, if_pos ‹_›, rfl⟩
    · rw [if_neg ‹_›]
      split at h
      · exact exec_arch (s := advancePc ⟨a', d⟩) (s' := advancePc ⟨a', d'⟩) rfl hr h
      · cases h; exact ⟨_, rfl, rfl⟩

end Sys2Proof.Machine
end

