-- ==== Sys2Proof/Laws/Decode.lean ====
section
/-! SUPPORT. The fields of an encoded word (spec 30_encoding R77): each format puts each operand where the decoder
reads it. -/

namespace Sys2Proof

/-- A field that lies in the high part of a concatenation is a field of that part. -/
theorem extract_append_high {w v n : Nat} (a : BitVec w) (b : BitVec v) (k : Nat) :
    (a ++ b).extractLsb' (v + k) n = a.extractLsb' k n := by
  refine BitVec.eq_of_getLsbD_eq fun i hi => ?_
  simp [BitVec.getLsbD_append, hi, Nat.add_assoc]

/-- A field that lies in the low part of a concatenation is a field of that part. -/
theorem extract_append_low {w v n : Nat} (a : BitVec w) (b : BitVec v) (k : Nat) (h : k + n ≤ v) :
    (a ++ b).extractLsb' k n = b.extractLsb' k n := by
  refine BitVec.eq_of_getLsbD_eq fun i hi => ?_
  have : k + i < v := by omega
  simp [BitVec.getLsbD_append, hi, this]

theorem opGroup_encNNN (g : Nibble) (nnn : Addr) : opGroup (encNNN g nnn) = g :=
  (extract_append_high g nnn 0).trans BitVec.extractLsb'_eq_self

theorem opNnn_encNNN (g : Nibble) (nnn : Addr) : opNnn (encNNN g nnn) = nnn :=
  (extract_append_low g nnn 0 (by decide)).trans BitVec.extractLsb'_eq_self

/-- A register number goes through its 4-bit field unchanged. -/
theorem regField_roundTrip (r : Reg) : Fin.ofNat 16 (regField r).toNat = r := by
  revert r
  decide

theorem opGroup_encXKK (g : Nibble) (x : Reg) (kk : Byte) : opGroup (encXKK g x kk) = g :=
  ((extract_append_high (g ++ regField x) kk 4).trans (extract_append_high g (regField x) 0)).trans
    BitVec.extractLsb'_eq_self

theorem opX_encXKK (g : Nibble) (x : Reg) (kk : Byte) : opX (encXKK g x kk) = x := by
  have h : (encXKK g x kk).extractLsb' 8 4 = regField x :=
    ((extract_append_high (g ++ regField x) kk 0).trans (extract_append_low g (regField x) 0 (by decide))).trans
      BitVec.extractLsb'_eq_self
  rw [opX, h, regField_roundTrip]

theorem opKk_encXKK (g : Nibble) (x : Reg) (kk : Byte) : opKk (encXKK g x kk) = kk :=
  (extract_append_low (g ++ regField x) kk 0 (by decide)).trans BitVec.extractLsb'_eq_self

theorem opGroup_encXYN (g : Nibble) (x y : Reg) (n : Nibble) : opGroup (encXYN g x y n) = g :=
  ((extract_append_high (g ++ regField x ++ regField y) n 8).trans
    ((extract_append_high (g ++ regField x) (regField y) 4).trans (extract_append_high g (regField x) 0))).trans
    BitVec.extractLsb'_eq_self

theorem opX_encXYN (g : Nibble) (x y : Reg) (n : Nibble) : opX (encXYN g x y n) = x := by
  have h : (encXYN g x y n).extractLsb' 8 4 = regField x :=
    ((extract_append_high (g ++ regField x ++ regField y) n 4).trans
      ((extract_append_high (g ++ regField x) (regField y) 0).trans
        (extract_append_low g (regField x) 0 (by decide)))).trans BitVec.extractLsb'_eq_self
  rw [opX, h, regField_roundTrip]

theorem opY_encXYN (g : Nibble) (x y : Reg) (n : Nibble) : opY (encXYN g x y n) = y := by
  have h : (encXYN g x y n).extractLsb' 4 4 = regField y :=
    ((extract_append_high (g ++ regField x ++ regField y) n 0).trans
      (extract_append_low (g ++ regField x) (regField y) 0 (by decide))).trans BitVec.extractLsb'_eq_self
  rw [opY, h, regField_roundTrip]

theorem opN_encXYN (g : Nibble) (x y : Reg) (n : Nibble) : opN (encXYN g x y n) = n :=
  (extract_append_low (g ++ regField x ++ regField y) n 0 (by decide)).trans BitVec.extractLsb'_eq_self

end Sys2Proof
end

