-- ==== Sys2Proof/Machine/Parameters.lean ====
section
/-! DEFINITION. The machine with its open parameters as an argument (spec 00_scope R7): one machine for every `Config`,
the modelled one at `config`. The draw `rnd` is no setting: it is the free input `Config.rnd` (log 1). -/

namespace Sys2Proof.Machine

/-- The meaning of an instruction under the parameters. `FONT` reaches the instructions that read or write memory (what an
unlisted address reads as), `SUB_EQ_FLAG` the two subtractions, `RET_UNDERFLOW` the return; the others depend on no
parameter. -/
def execWith (cfg : Config) (i : Instr) (s : State) : Host.Outcome State Fault Refusal :=
  match i with
  | .ret => execRetWith cfg s
  | .subReg x y => execSubRegWith cfg x y s
  | .subnReg x y => execSubnRegWith cfg x y s
  | .drw x y n => execDrwWith cfg x y n s
  | .ldB x => execLdBWith cfg x s
  | .storeRegs x => execStoreRegsWith cfg x s
  | .loadRegs x => execLoadRegsWith cfg x s
  | .cls | .nop | .sys _ | .jp _ | .call _ | .jpV0 _ => exec i s
  | .seImm _ _ | .sneImm _ _ | .seReg _ _ | .sneReg _ _ | .skp _ | .sknp _ => exec i s
  | .ldImm _ _ | .addImm _ _ | .ldI _ | .rnd _ _ => exec i s
  | .ldReg _ _ | .orReg _ _ | .andReg _ _ | .xorReg _ _ | .addReg _ _ | .shr _ _ | .shl _ _ => exec i s
  | .ldVxDt _ | .ldVxK _ | .ldDtVx _ | .ldStVx _ | .addI _ | .ldF _ => exec i s

/-- STEP under the parameters: `PC_GUARD` bounds the fetch, `ANNN` is the decoder's reading of that word, `FONT` what
unwritten memory below 0x050 is fetched as (40 R100). -/
def stepWith (cfg : Config) (s : State) : Host.Outcome State Fault Refusal := stepBy (execWith cfg) s cfg

/-- One transaction under the parameters: RESET and LOAD give `RESET_V` to `RESET_ST` and `FONT` (00 R8; 70 R230 to
R233). -/
def transactWith (cfg : Config) (x : Transaction) (s : State) : Host.Outcome State Fault Refusal :=
  transactBy (stepWith cfg) x s cfg

/-- A session under the parameters. -/
def runSessionWith (cfg : Config) (xs : List Transaction) (s : State) : Host.Outcome State Fault Refusal :=
  sessionBy (transactWith cfg) xs s

/-- The machine under the parameters, in the host's form. -/
def machineWith (cfg : Config) : Host.Core :=
  { State := State, Fault := Fault, Refusal := Refusal, step := stepWith cfg, reset := State.resetWith cfg }

end Sys2Proof.Machine
end

