-- ==== Sys2Proof/Laws/Parameters.lean ====
section
/-! SUPPORT. The machine with its parameters as an argument (spec 00_scope R7): at the spec's defaults it is the modelled
machine, and under every FONT the memory operations keep the canonical form of that FONT. -/

namespace Sys2Proof.Machine

/-! ### At the defaults -/

theorem execWith_config (i : Instr) (s : State) : execWith config i s = exec i s := by cases i <;> rfl

theorem stepWith_config : stepWith config = step := by
  have h : execWith config = exec := funext fun i => funext fun s => execWith_config i s
  funext s
  rw [stepWith, h, step]

theorem transactWith_config : transactWith config = transact := by
  funext x s
  rw [transactWith, stepWith_config, transact]

theorem runSessionWith_config : runSessionWith config = runSession := by
  funext xs s
  rw [runSessionWith, transactWith_config, runSession]

theorem machineWith_config : machineWith config = Sys2Proof.core := by
  rw [machineWith, stepWith_config]
  rfl

/-! ### Under every value of the parameters -/

/-- A reset gives the reset state of the parameters; only the place in the random input goes on (log 1). -/
theorem transactWith_reset (cfg : Config) (s : State) :
    transactWith cfg .reset s = .next { State.resetWith cfg with draws := s.draws } := rfl

/-- At PC_GUARD and above a step that is not halted changes nothing. -/
theorem stepWith_stalled {cfg : Config} {s : State} (h : cfg.pcGuard ≤ s.pc.toNat) : stepWith cfg s = .next s := by
  have hs : stalled s cfg = true := decide_eq_true h
  simp only [stepWith, stepBy, hs, if_true, ite_self]

/-- Byte writes keep the canonical form of the FONT they are made under. -/
theorem storeRegsWith_wf {cfg : Config} {s t : State} {x : Reg} (hm : s.mem.wf cfg = true)
    (h : execWith cfg (.storeRegs x) s = .next t) : t.mem.wf cfg = true := by
  cases h
  exact memWriteBytes_wf hm _ _

theorem ldBWith_wf {cfg : Config} {s t : State} {x : Reg} (hm : s.mem.wf cfg = true)
    (h : execWith cfg (.ldB x) s = .next t) : t.mem.wf cfg = true := by
  cases h
  exact memWriteBytes_wf hm _ _

end Sys2Proof.Machine
end

