-- ==== Sys2Proof/Laws/PerInstr.lean ====
section
/-! SUPPORT. Statements about every instruction as syntax, one lemma a constructor. The family `EncodesItsGroup`: the top
nibble of an instruction's word is the one its row of spec 30_encoding R83 fixes. -/

namespace Sys2Proof.Laws.EncodesItsGroup

/-- The word of `i` has the top nibble of `i`'s row (R76, R83). -/
def Statement (i : Instr) : Prop := opGroup (encode i) = i.group

theorem cls : Statement (.cls) := by unfold Statement; decide
theorem ret : Statement (.ret) := by unfold Statement; decide
theorem nop : Statement (.nop) := by unfold Statement; decide
theorem sys (nnn : Addr) : Statement (.sys nnn) := opGroup_encNNN _ nnn
theorem jp (nnn : Addr) : Statement (.jp nnn) := opGroup_encNNN _ nnn
theorem call (nnn : Addr) : Statement (.call nnn) := opGroup_encNNN _ nnn
theorem seImm (x : Reg) (kk : Byte) : Statement (.seImm x kk) := opGroup_encXKK _ x kk
theorem sneImm (x : Reg) (kk : Byte) : Statement (.sneImm x kk) := opGroup_encXKK _ x kk
theorem seReg (x : Reg) (y : Reg) : Statement (.seReg x y) := opGroup_encXYN _ x y _
theorem ldImm (x : Reg) (kk : Byte) : Statement (.ldImm x kk) := opGroup_encXKK _ x kk
theorem addImm (x : Reg) (kk : Byte) : Statement (.addImm x kk) := opGroup_encXKK _ x kk
theorem ldReg (x : Reg) (y : Reg) : Statement (.ldReg x y) := opGroup_encXYN _ x y _
theorem orReg (x : Reg) (y : Reg) : Statement (.orReg x y) := opGroup_encXYN _ x y _
theorem andReg (x : Reg) (y : Reg) : Statement (.andReg x y) := opGroup_encXYN _ x y _
theorem xorReg (x : Reg) (y : Reg) : Statement (.xorReg x y) := opGroup_encXYN _ x y _
theorem addReg (x : Reg) (y : Reg) : Statement (.addReg x y) := opGroup_encXYN _ x y _
theorem subReg (x : Reg) (y : Reg) : Statement (.subReg x y) := opGroup_encXYN _ x y _
theorem shr (x : Reg) (y : Reg) : Statement (.shr x y) := opGroup_encXYN _ x y _
theorem subnReg (x : Reg) (y : Reg) : Statement (.subnReg x y) := opGroup_encXYN _ x y _
theorem shl (x : Reg) (y : Reg) : Statement (.shl x y) := opGroup_encXYN _ x y _
theorem sneReg (x : Reg) (y : Reg) : Statement (.sneReg x y) := opGroup_encXYN _ x y _
theorem ldI (nnn : Addr) : Statement (.ldI nnn) := opGroup_encNNN _ nnn
theorem jpV0 (nnn : Addr) : Statement (.jpV0 nnn) := opGroup_encNNN _ nnn
theorem rnd (x : Reg) (kk : Byte) : Statement (.rnd x kk) := opGroup_encXKK _ x kk
theorem drw (x : Reg) (y : Reg) (n : Nibble) : Statement (.drw x y n) := opGroup_encXYN _ x y n
theorem skp (x : Reg) : Statement (.skp x) := opGroup_encXKK _ x _
theorem sknp (x : Reg) : Statement (.sknp x) := opGroup_encXKK _ x _
theorem ldVxDt (x : Reg) : Statement (.ldVxDt x) := opGroup_encXKK _ x _
theorem ldVxK (x : Reg) : Statement (.ldVxK x) := opGroup_encXKK _ x _
theorem ldDtVx (x : Reg) : Statement (.ldDtVx x) := opGroup_encXKK _ x _
theorem ldStVx (x : Reg) : Statement (.ldStVx x) := opGroup_encXKK _ x _
theorem addI (x : Reg) : Statement (.addI x) := opGroup_encXKK _ x _
theorem ldF (x : Reg) : Statement (.ldF x) := opGroup_encXKK _ x _
theorem ldB (x : Reg) : Statement (.ldB x) := opGroup_encXKK _ x _
theorem storeRegs (x : Reg) : Statement (.storeRegs x) := opGroup_encXKK _ x _
theorem loadRegs (x : Reg) : Statement (.loadRegs x) := opGroup_encXKK _ x _

end Sys2Proof.Laws.EncodesItsGroup
end

