-- ==== Sys2Proof/Laws/Plane.lean ====
section
/-! SUPPORT. The display plane: what one pixel reads after each plane operation (spec 44_display R151 to R153). -/

namespace Sys2Proof.Machine

/-- Coordinates wrap (R151, R152). -/
theorem pixel_mod (fb : Plane) (x y : Nat) : pixel fb (x % dispW) (y % dispH) = pixel fb x y := by
  simp [pixel]

@[simp] theorem pixel_clearPlane (x y : Nat) : pixel clearPlane x y = false := by
  simp [pixel, clearPlane]

/-- `putPixel` replaces the pixel at the wrapped coordinates and no other. -/
theorem pixel_putPixel (fb : Plane) (x y x' y' : Nat) (b : Bool) :
    pixel (putPixel fb x y b) x' y' =
      if x' % dispW = x % dispW ∧ y' % dispH = y % dispH then b else pixel fb x' y' := by
  by_cases hy : y % dispH = y' % dispH
  · by_cases hx : x % dispW = x' % dispW
    · simp [pixel, putPixel, hx, hy]
    · have hx' : ¬ x' % dispW = x % dispW := fun e => hx e.symm
      simp_all [pixel, putPixel]
  · have hy' : ¬ y' % dispH = y % dispH := fun e => hy e.symm
    simp_all [pixel, putPixel]

/-- Two planes in which every pixel reads the same are the same plane. -/
theorem plane_ext {fb fb' : Plane} (h : ∀ x y, pixel fb x y = pixel fb' x y) : fb = fb' := by
  refine Vector.ext fun y hy => Vector.ext fun x hx => ?_
  have := h x y
  simpa [pixel, Nat.mod_eq_of_lt hx, Nat.mod_eq_of_lt hy] using this

/-- Drawing no row leaves the plane and the collision as they were (R158(b)). -/
@[simp] theorem drawRows_zero (m : Memory) (base x0 y0 : Nat) (acc : Plane × Bool) (cfg : Config) :
    drawRows m base x0 y0 0 acc cfg = acc := rfl

theorem drawRows_succ (m : Memory) (base x0 y0 k : Nat) (acc : Plane × Bool) (cfg : Config) :
    drawRows m base x0 y0 (k + 1) acc cfg =
      plotRow (memRead m (base + k) cfg) x0 (y0 + k) 8 (drawRows m base x0 y0 k acc cfg) := rfl

@[simp] theorem plotRow_zero (row : Byte) (x0 y : Nat) (acc : Plane × Bool) :
    plotRow row x0 y 0 acc = acc := rfl

/-- One more pixel of a row: it is plotted, and its collision is added (R157). -/
theorem plotRow_succ (row : Byte) (x0 y j : Nat) (acc : Plane × Bool) :
    plotRow row x0 y (j + 1) acc =
      ((plot (plotRow row x0 y j acc).1 (x0 + j) y (row.getLsbD (7 - j))).1,
       (plotRow row x0 y j acc).2 || (plot (plotRow row x0 y j acc).1 (x0 + j) y (row.getLsbD (7 - j))).2) := rfl

/-- The drawing reads memory only through its bytes. -/
theorem drawRows_congr {m m' : Memory} {cfg : Config} (h : ∀ a, memRead m a cfg = memRead m' a cfg)
    (base x0 y0 n : Nat) (acc : Plane × Bool) :
    drawRows m base x0 y0 n acc cfg = drawRows m' base x0 y0 n acc cfg := by
  induction n with
  | zero => rfl
  | succ n ih => rw [drawRows_succ, drawRows_succ, ih, h]

end Sys2Proof.Machine
end

