-- ==== Sys2Proof/Laws/Session.lean ====
section
/-! SUPPORT. One transaction of the modelled machine, and a session one transaction at a time (spec 00_scope R8). -/

namespace Sys2Proof.Machine

@[simp] theorem transact_reset (s : State) : transact .reset s = .next (resetAll s) := rfl
@[simp] theorem transact_load (bytes : List Byte) (s : State) : transact (.load bytes) s = load bytes s := rfl
@[simp] theorem transact_step (s : State) : transact .step s = step s := rfl
@[simp] theorem transact_tick (s : State) : transact .tick s = .next (tick s) := rfl
@[simp] theorem transact_setKey (k : Nat) (p : Bool) (s : State) : transact (.setKey k p) s = setKey k p s := rfl
@[simp] theorem transact_snapshot (s : State) : transact .snapshot s = .next s := rfl

@[simp] theorem runSession_nil (s : State) : runSession [] s = .next s := rfl

/-- A session whose first transaction answers goes on from there. -/
theorem runSession_cons {x : Transaction} {s t : State} (xs : List Transaction) (h : transact x s = .next t) :
    runSession (x :: xs) s = runSession xs t := by
  simp only [runSession, sessionBy, h]

/-- A session that ends in a next state did its first transaction and then the rest. -/
theorem runSession_cons_next {x : Transaction} {xs : List Transaction} {s u : State}
    (h : runSession (x :: xs) s = .next u) : ∃ t, transact x s = .next t ∧ runSession xs t = .next u := by
  simp only [runSession, sessionBy] at h
  split at h
  · exact ⟨_, ‹_›, h⟩
  · cases h
  · cases h

end Sys2Proof.Machine
end

