-- ==== Sys2Proof/Tests/Slice0.lean ====
section
/-! SUPPORT. The model's own tests, each expected value taken from spec 95_test_vectors (the vector is named), and one
witness for each obligation with hypotheses. -/

namespace Sys2Proof.Tests

open Sys2Proof Sys2Proof.Machine

/-- The launch state with the changes of a vector's "before" column and the word where PC points. -/
def boot (before : State → State) (op : Word) : State := placeWord (before State.reset) op

/-- The outcome is a next state that passes the check. -/
def passes (o : Host.Outcome State Fault Refusal) (p : State → Bool) : Bool :=
  match o with
  | .next t => p t
  | .fault _ => false
  | .refused _ => false

/-- The outcome is this refusal. -/
def refusedWith (o : Host.Outcome State Fault Refusal) (r : Refusal) : Bool :=
  match o with
  | .next _ => false
  | .fault _ => false
  | .refused q => q == r

/-- One STEP of a vector. -/
def oneStep (before : State → State) (op : Word) (p : State → Bool) : Bool := passes (step (boot before op)) p

/-- Register values written one after the other. -/
def withRegs (l : List (Reg × Byte)) (s : State) : State := l.foldl (fun s e => setV s e.1 e.2) s

/-- Bytes stored from an address up. -/
def withBytes (a : Nat) (l : List Byte) (s : State) : State := setMem s (memWriteBytes s.mem a l)

/-- Pixels lit one after the other, `(x, y)`. -/
def withPixels (l : List (Nat × Nat)) (s : State) : State :=
  setFb s (l.foldl (fun fb e => putPixel fb e.1 e.2 true) s.fb)

/-- Keys pressed. -/
def withKeys (l : List (Fin 16)) (s : State) : State :=
  { s with key := l.foldl (fun v k => v.set k.val true) s.key }

/-- The number of lit pixels. -/
def litCount (s : State) : Nat := (snapshot s).count true

/-! ### Well-formedness: what the check refuses -/

theorem test_wf_sys_refuses_nop_word : (Instr.sys 0x000).wf = false := by decide
theorem test_wf_sys_refuses_cls_word : (Instr.sys 0x0E0).wf = false := by decide
theorem test_wf_sys_refuses_ret_word : (Instr.sys 0x0EE).wf = false := by decide
theorem test_wf_sys_accepts_neighbour : (Instr.sys 0x0E1).wf = true := by decide
theorem test_wf_ldI_refused_when_illegal : (Instr.ldI 0x300).wfWith .illegal = false := by decide
theorem test_wf_ldI_accepted : (Instr.ldI 0x300).wf = true := by decide

/-! ### Decoding: a word for every constructor (T-DEC-1 to T-DEC-19) -/

theorem test_decode_cls : decodeWord 0x00E0 = .ok .cls := by decide
theorem test_decode_ret : decodeWord 0x00EE = .ok .ret := by decide
theorem test_decode_nop : decodeWord 0x0000 = .ok .nop := by decide
theorem test_decode_sys : decodeWord 0x0123 = .ok (.sys 0x123) := by decide
theorem test_decode_sys_next_to_cls : decodeWord 0x00E1 = .ok (.sys 0x0E1) := by decide
theorem test_decode_jp : decodeWord 0x1ABC = .ok (.jp 0xABC) := by decide
theorem test_decode_call : decodeWord 0x2ABC = .ok (.call 0xABC) := by decide
theorem test_decode_seImm : decodeWord 0x3A7F = .ok (.seImm 10 0x7F) := by decide
theorem test_decode_sneImm : decodeWord 0x4A7F = .ok (.sneImm 10 0x7F) := by decide
theorem test_decode_seReg : decodeWord 0x5AB0 = .ok (.seReg 10 11) := by decide
theorem test_decode_ldImm : decodeWord 0x6A7F = .ok (.ldImm 10 0x7F) := by decide
theorem test_decode_addImm : decodeWord 0x7A7F = .ok (.addImm 10 0x7F) := by decide
theorem test_decode_ldReg : decodeWord 0x8AB0 = .ok (.ldReg 10 11) := by decide
theorem test_decode_orReg : decodeWord 0x8AB1 = .ok (.orReg 10 11) := by decide
theorem test_decode_andReg : decodeWord 0x8AB2 = .ok (.andReg 10 11) := by decide
theorem test_decode_xorReg : decodeWord 0x8AB3 = .ok (.xorReg 10 11) := by decide
theorem test_decode_addReg : decodeWord 0x8AB4 = .ok (.addReg 10 11) := by decide
theorem test_decode_subReg : decodeWord 0x8AB5 = .ok (.subReg 10 11) := by decide
theorem test_decode_shr : decodeWord 0x8AB6 = .ok (.shr 10 11) := by decide
theorem test_decode_subnReg : decodeWord 0x8AB7 = .ok (.subnReg 10 11) := by decide
theorem test_decode_shl : decodeWord 0x8ABE = .ok (.shl 10 11) := by decide
theorem test_decode_sneReg : decodeWord 0x9AB0 = .ok (.sneReg 10 11) := by decide
theorem test_decode_ldI : decodeWord 0xAABC = .ok (.ldI 0xABC) := by decide
theorem test_decode_jpV0 : decodeWord 0xBABC = .ok (.jpV0 0xABC) := by decide
theorem test_decode_rnd : decodeWord 0xCA7F = .ok (.rnd 10 0x7F) := by decide
theorem test_decode_drw : decodeWord 0xD12F = .ok (.drw 1 2 15) := by decide
theorem test_decode_skp : decodeWord 0xEA9E = .ok (.skp 10) := by decide
theorem test_decode_sknp : decodeWord 0xEAA1 = .ok (.sknp 10) := by decide
theorem test_decode_ldVxDt : decodeWord 0xFA07 = .ok (.ldVxDt 10) := by decide
theorem test_decode_ldVxK : decodeWord 0xFA0A = .ok (.ldVxK 10) := by decide
theorem test_decode_ldDtVx : decodeWord 0xFA15 = .ok (.ldDtVx 10) := by decide
theorem test_decode_ldStVx : decodeWord 0xFA18 = .ok (.ldStVx 10) := by decide
theorem test_decode_addI : decodeWord 0xFA1E = .ok (.addI 10) := by decide
theorem test_decode_ldF : decodeWord 0xFA29 = .ok (.ldF 10) := by decide
theorem test_decode_ldB : decodeWord 0xFA33 = .ok (.ldB 10) := by decide
theorem test_decode_storeRegs : decodeWord 0xFA55 = .ok (.storeRegs 10) := by decide
theorem test_decode_loadRegs : decodeWord 0xFA65 = .ok (.loadRegs 10) := by decide

/-- The decoder refuses the word by name. -/
def refusesWord (op : Word) : Bool :=
  match decodeWord op with
  | .ok _ => false
  | .error e => e == .illegalWord op

/-- The illegal words of T-DEC-20. -/
theorem test_decode_illegal_words :
    ([0x5AB1, 0x5ABF, 0x9AB1, 0x8AB8, 0x8AB9, 0x8ABA, 0x8ABB, 0x8ABC, 0x8ABD, 0x8ABF, 0xEA00, 0xEA9F,
      0xEAA0, 0xEAFF, 0xFA00, 0xFA08, 0xFA1F, 0xFA56, 0xFA66, 0xFA75, 0xFA85, 0xFAFF] : List Word).all
      refusesWord = true := by decide

/-- T-LDI-14: with `ANNN = illegal` the word is illegal. -/
theorem test_decode_annn_illegal : decodeWordWith .illegal 0xA300 = .error (.illegalWord 0xA300) := by decide

/-- R75, R55: two bytes an instruction, the high byte first; fewer bytes are no instruction. -/
theorem test_decode_bytes : decode [0x6A, 0x02, 0x99] = .ok (.ldImm 10 0x02, [0x99]) := by decide
theorem test_decode_truncated : decode [0x6A] = .error .truncated := by decide
theorem test_encode_addReg : encode (.addReg 0 1) = 0x8014 := by decide
theorem test_encode_drw : encode (.drw 1 2 15) = 0xD12F := by decide

/-- The host's word interface: a table row's bits, its operand fields zero, or a whole word. -/
theorem test_decodeTableWord_zero_fields : decodeTableWord 16 0x8004 = some (.addReg 0 0) := by decide
theorem test_decodeTableWord_illegal : decodeTableWord 16 0x8008 = none := by decide

/-! ### One step a vector -/

/-- T-DISP-1. -/
theorem test_cls : oneStep (withRegs [(15, 1)] ∘ withPixels [(0, 0), (63, 31), (10, 5)]) 0x00E0 (fun t =>
    litCount t == 0 && getV t 15 == 1 && t.pc == 0x202) = true := by decide +kernel

/-- T-FLOW-11. -/
theorem test_ret : oneStep (fun s => setPc { s with sp := 1, stack := s.stack.set 1 0x0206 } 0x212) 0x00EE (fun t =>
    t.pc == 0x206 && t.sp == 0 && t.stack[1] == 0x0206) = true := by decide

/-- T-FLOW-12: `SP = 0` wraps to 15. -/
theorem test_ret_underflow : oneStep id 0x00EE (fun t => t.pc == 0x000 && t.sp == 15) = true := by decide

/-- T-FLOW-1. -/
theorem test_nop : oneStep id 0x0000 (fun t => t.pc == 0x202) = true := by decide

/-- T-FLOW-2: no call is made. -/
theorem test_sys : oneStep (fun s => { s with sp := 3, stack := s.stack.set 3 0x0456 }) 0x0123 (fun t =>
    t.pc == 0x202 && t.sp == 3 && t.stack[3] == 0x0456) = true := by decide

/-- T-FLOW-7: not masked, not stalled. -/
theorem test_jp : oneStep id 0x1FFF (fun t => t.pc == 0xFFF && !stalled t) = true := by decide

/-- T-FLOW-8. -/
theorem test_call : oneStep (fun s => setPc s 0x204) 0x2210 (fun t =>
    t.sp == 1 && t.stack[1] == 0x0206 && t.pc == 0x210) = true := by decide

/-- T-FLOW-9: the 16th nested call wraps to slot 0. -/
theorem test_call_wraps : oneStep (fun s => { s with sp := 15 }) 0x2300 (fun t =>
    t.sp == 0 && t.stack[0] == 0x0202 && t.pc == 0x300) = true := by decide

/-- T-FLOW-16: V0 is used, not V2. -/
theorem test_jpV0 : oneStep (withRegs [(0, 0x01), (2, 0x50)]) 0xB234 (fun t => t.pc == 0x235) = true := by
  decide

/-- T-FLOW-19: the sum is not masked. -/
theorem test_jpV0_unmasked : oneStep (withRegs [(0, 0xFF)]) 0xBFFF (fun t => t.pc == 0x10FE && stalled t) = true := by
  decide

/-- T-SKIP-1 and T-SKIP-2. -/
theorem test_seImm_skips : oneStep (withRegs [(0, 5)]) 0x3005 (fun t => t.pc == 0x204) = true := by decide
theorem test_seImm_stays : oneStep (withRegs [(0, 4)]) 0x3005 (fun t => t.pc == 0x202) = true := by decide

/-- T-SKIP-3 and T-SKIP-4. -/
theorem test_sneImm_skips : oneStep (withRegs [(3, 0x10)]) 0x4311 (fun t => t.pc == 0x204) = true := by decide
theorem test_sneImm_stays : oneStep (withRegs [(3, 0x10)]) 0x4310 (fun t => t.pc == 0x202) = true := by decide

/-- T-SKIP-5 and T-SKIP-6. -/
theorem test_seReg_skips : oneStep (withRegs [(1, 7), (2, 7)]) 0x5120 (fun t => t.pc == 0x204) = true := by
  decide
theorem test_seReg_stays : oneStep (withRegs [(1, 7), (2, 8)]) 0x5120 (fun t => t.pc == 0x202) = true := by
  decide

/-- T-SKIP-8 and T-SKIP-9. -/
theorem test_sneReg_skips : oneStep (withRegs [(1, 7), (2, 8)]) 0x9120 (fun t => t.pc == 0x204) = true := by
  decide
theorem test_sneReg_stays : oneStep (withRegs [(1, 7), (2, 7)]) 0x9120 (fun t => t.pc == 0x202) = true := by
  decide

/-- T-LDI-1. -/
theorem test_ldImm : oneStep id 0x6A2B (fun t => getV t 10 == 0x2B && t.pc == 0x202) = true := by decide

/-- T-LDI-4: wraps, and VF stays. -/
theorem test_addImm : oneStep (withRegs [(2, 0xFF), (15, 1)]) 0x7201 (fun t => getV t 2 == 0 && getV t 15 == 1) =
    true := by decide

/-- T-LDI-12. -/
theorem test_ldI : oneStep (fun s => setI s 0x123) 0xAFFF (fun t => t.i == 0xFFF) = true := by decide

/-- T-LDI-15 and T-LDI-18, for a given draw. -/
theorem test_rnd_mask : getV (randomAnd 0xA7 3 0x0F State.reset) 3 = 0x07 := by decide
theorem test_rnd_into_vf : getV (randomAnd 0xFF 15 0x81 State.reset) 15 = 0x81 := by decide

/-- T-ALU-33: VF as a plain destination. -/
theorem test_ldReg : oneStep (withRegs [(1, 0x42)]) 0x8F10 (fun t => getV t 15 == 0x42) = true := by decide

/-- T-ALU-2. -/
theorem test_orReg : oneStep (withRegs [(0, 0xF0), (1, 0x0F), (15, 1)]) 0x8011 (fun t =>
    getV t 0 == 0xFF && getV t 15 == 1) = true := by decide

/-- T-ALU-3. -/
theorem test_andReg : oneStep (withRegs [(0, 0xF3), (1, 0x3C), (15, 1)]) 0x8012 (fun t =>
    getV t 0 == 0x30 && getV t 15 == 1) = true := by decide

/-- T-ALU-4. -/
theorem test_xorReg : oneStep (withRegs [(0, 0xFF), (1, 0x0F), (15, 1)]) 0x8013 (fun t =>
    getV t 0 == 0xF0 && getV t 15 == 1) = true := by decide

/-- T-ALU-8 (no carry at 255) and T-ALU-24 (the flag overwrites the result). -/
theorem test_addReg_255 : oneStep (withRegs [(0, 0xFF)]) 0x8014 (fun t => getV t 0 == 0xFF && getV t 15 == 0) =
    true := by decide
theorem test_addReg_into_vf : oneStep (withRegs [(15, 1), (1, 1)]) 0x8F14 (fun t => getV t 15 == 0) = true := by
  decide

/-- T-ALU-10 and T-ALU-12. -/
theorem test_subReg_borrow : oneStep (withRegs [(0, 1), (1, 2), (15, 1)]) 0x8015 (fun t =>
    getV t 0 == 0xFF && getV t 15 == 0) = true := by decide
theorem test_subReg_equal : oneStep (withRegs [(0, 7), (1, 7), (15, 1)]) 0x8015 (fun t =>
    getV t 0 == 0 && getV t 15 == 0) = true := by decide

/-- T-ALU-15 and T-ALU-28. -/
theorem test_shr_ignores_vy : oneStep (withRegs [(0, 4), (1, 0xFF), (15, 1)]) 0x8016 (fun t =>
    getV t 0 == 2 && getV t 15 == 0 && getV t 1 == 0xFF) = true := by decide
theorem test_shr_vf : oneStep (withRegs [(15, 2)]) 0x8F06 (fun t => getV t 15 == 0) = true := by decide

/-- T-ALU-17 and T-ALU-18. -/
theorem test_subnReg : oneStep (withRegs [(0, 1), (1, 3)]) 0x8017 (fun t =>
    getV t 0 == 2 && getV t 15 == 1 && getV t 1 == 3) = true := by decide
theorem test_subnReg_borrow : oneStep (withRegs [(0, 3), (1, 1), (15, 1)]) 0x8017 (fun t =>
    getV t 0 == 0xFE && getV t 15 == 0) = true := by decide

/-- T-ALU-20 and T-ALU-22. -/
theorem test_shl : oneStep (withRegs [(0, 0x81)]) 0x800E (fun t => getV t 0 == 2 && getV t 15 == 1) = true := by
  decide
theorem test_shl_ignores_vy : oneStep (withRegs [(0, 0x40), (1, 0xFF)]) 0x801E (fun t =>
    getV t 0 == 0x80 && getV t 15 == 0 && getV t 1 == 0xFF) = true := by decide

/-- T-DISP-8: both coordinates wrap. -/
theorem test_drw_wraps : oneStep (withRegs [(0, 0xFF), (1, 0xFF)] ∘ withBytes 0x300 [0xC0] ∘ fun s => setI s 0x300)
    0xD011 (fun t => litCount t == 2 && pixel t.fb 63 31 && pixel t.fb 0 31 && getV t 15 == 0) = true := by
  decide +kernel

/-- T-DISP-11: a lit pixel is erased and reported. -/
theorem test_drw_collision : oneStep (withPixels [(0, 0)] ∘ withBytes 0x300 [0xC0] ∘ fun s => setI s 0x300)
    0xD011 (fun t => litCount t == 1 && pixel t.fb 1 0 && getV t 15 == 1) = true := by decide +kernel

/-- T-KEY-4 and T-KEY-3: the index is not masked. -/
theorem test_skp_key15 : oneStep (withRegs [(2, 0x0F)] ∘ withKeys [15]) 0xE29E (fun t => t.pc == 0x204) = true := by
  decide
theorem test_skp_unmasked : oneStep (withRegs [(2, 0x15)] ∘ withKeys [5]) 0xE29E (fun t => t.pc == 0x202) = true := by
  decide

/-- T-KEY-5 and T-KEY-6. -/
theorem test_sknp_skips : oneStep (withRegs [(2, 5)]) 0xE2A1 (fun t => t.pc == 0x204) = true := by decide
theorem test_sknp_stays : oneStep (withRegs [(2, 5)] ∘ withKeys [5]) 0xE2A1 (fun t => t.pc == 0x202) = true := by
  decide

/-- T-TMR-1. -/
theorem test_ldVxDt : oneStep (fun s => setDt s 0x3C) 0xF507 (fun t => getV t 5 == 0x3C && t.dt == 0x3C) = true := by
  decide

/-- T-KEY-11 and T-KEY-10: the lowest key wins, key 15 is not scanned. -/
theorem test_ldVxK : oneStep (withKeys [2, 9]) 0xF30A (fun t => getV t 3 == 2 && t.pc == 0x202) = true := by
  decide
theorem test_ldVxK_key15 : oneStep (withRegs [(3, 0x99)] ∘ withKeys [15]) 0xF30A (fun t =>
    getV t 3 == 0x99 && t.pc == 0x200) = true := by decide

/-- T-TMR-2 and T-TMR-3. -/
theorem test_ldDtVx : oneStep (withRegs [(0, 0x3C)]) 0xF015 (fun t => t.dt == 0x3C && t.st == 0) = true := by
  decide
theorem test_ldStVx : oneStep (withRegs [(1, 2)]) 0xF118 (fun t => t.st == 2 && t.dt == 0) = true := by decide

/-- T-IDX-4 and T-IDX-6. -/
theorem test_addI_wraps : oneStep (withRegs [(0, 1)] ∘ fun s => setI s 0xFFF) 0xF01E (fun t =>
    t.i == 0 && getV t 15 == 1) = true := by decide
theorem test_addI_vf : oneStep (withRegs [(15, 5)] ∘ fun s => setI s 0x100) 0xFF1E (fun t =>
    t.i == 0x105 && getV t 15 == 0) = true := by decide

/-- T-IDX-9: the low nibble only. -/
theorem test_ldF : oneStep (withRegs [(0, 0x1A)]) 0xF029 (fun t => t.i == 0x032) = true := by decide

/-- T-IDX-11 and T-IDX-13: the digits, and the wrap into the font. -/
theorem test_ldB : oneStep (withRegs [(0, 0xFE)] ∘ fun s => setI s 0x300) 0xF033 (fun t =>
    memRead t.mem 0x300 == 2 && memRead t.mem 0x301 == 5 && memRead t.mem 0x302 == 4) = true := by decide
theorem test_ldB_wraps : oneStep (withRegs [(0, 0x7B)] ∘ fun s => setI s 0xFFE) 0xF033 (fun t =>
    memRead t.mem 0xFFE == 1 && memRead t.mem 0xFFF == 2 && memRead t.mem 0x000 == 3 && t.mem.wf) = true := by
  decide

/-- T-IDX-14: V0 to Vx and no more; I stays. -/
theorem test_storeRegs : oneStep (withRegs [(0, 0x11), (1, 0x22), (2, 0x33), (3, 0x44)] ∘ fun s => setI s 0x400)
    0xF255 (fun t => memRead t.mem 0x400 == 0x11 && memRead t.mem 0x402 == 0x33 && memRead t.mem 0x403 == 0 &&
      t.i == 0x400) = true := by decide

/-- T-IDX-18 and T-IDX-20. -/
theorem test_loadRegs : oneStep (withRegs [(2, 0x77)] ∘ withBytes 0x400 [0x11, 0x22, 0x33] ∘ fun s => setI s 0x400)
    0xF165 (fun t => getV t 0 == 0x11 && getV t 1 == 0x22 && getV t 2 == 0x77 && t.i == 0x400) = true := by
  decide
theorem test_loadRegs_wraps : oneStep (withBytes 0xFFF [0x77] ∘ fun s => setI s 0xFFF) 0xF165 (fun t =>
    getV t 0 == 0x77 && getV t 1 == 0xF0) = true := by decide

/-! ### The step, the halt, the stall, fetch at the edge, the other transactions -/

/-- T-EXC-1. -/
theorem test_illegal_word_halts : oneStep (withRegs [(0, 0x12)] ∘ fun s => setI s 0x345) 0xFFFF (fun t =>
    t.halted && t.pc == 0x202 && getV t 0 == 0x12 && t.i == 0x345) = true := by decide

/-- T-FLOW-21: the word at PC is not fetched. -/
theorem test_halted_step : oneStep (fun s => { s with halted := true, pc := 0x204 }) 0x60FF (fun t =>
    t.pc == 0x204 && getV t 0 == 0 && t.halted) = true := by decide

/-- T-FLOW-20. -/
theorem test_stalled_step : passes (step (setPc State.reset 0x1000)) (fun t => t == setPc State.reset 0x1000) =
    true := by decide

/-- T-MEM-6: the low byte comes from 0x000, which holds the font's F0. -/
theorem test_fetch_at_the_edge : passes (step (setPc (withBytes 0xFFF [0x12] State.reset) 0xFFF)) (fun t =>
    t.pc == 0x2F0) = true := by decide

/-- T-MEM-5: an odd PC fetches. -/
theorem test_fetch_odd : passes (step (setPc (withBytes 0x201 [0x00, 0x12] State.reset) 0x201)) (fun t =>
    t.pc == 0x203 && !t.halted) = true := by decide

/-- T-TMR-4 and T-TMR-6. -/
theorem test_tick : (tick (setSt (setDt State.reset 0x3C) 2)).dt = 0x3B ∧
    (tick (setSt (setDt State.reset 0x3C) 2)).st = 1 := by decide
theorem test_tick_floor : tick State.reset = State.reset := by decide

/-- T-RST-4, the bytes and the fields it names. -/
theorem test_load : passes (load [0x12, 0x00] (withBytes 0x300 [0x55] (withBytes 0x010 [0x99]
      (withKeys [6] (withPixels [(2, 2)] { State.reset with halted := true, sp := 4 }))))) (fun t =>
    memRead t.mem 0x300 == 0 && memRead t.mem 0x010 == 0x10 && memRead t.mem 0x200 == 0x12 && t.sp == 0 &&
    !t.halted && t.pc == 0x200 && pixel t.fb 2 2 && t.key[6]) = true := by decide

/-- T-RST-1: RESET clears the plane and the keys too. -/
theorem test_reset_transaction : resetAll (withKeys [6] (withPixels [(2, 2)] (withBytes 0x010 [0x99]
    { State.reset with halted := true }))) = State.reset := by decide

/-- T-KEY-17. -/
theorem test_setKey_16 : refusedWith (setKey 16 true State.reset) .keyIndexOutOfRange = true := by decide

/-- T-DISP-19: bit number 131. -/
theorem test_snapshot : (snapshot (withPixels [(3, 2)] State.reset))[131]? = some true ∧
    litCount (withPixels [(3, 2)] State.reset) = 1 := by decide +kernel

/-- R62: 16 glyphs of 5 bytes. -/
theorem test_font_shape : fontGlyphs.length = 16 ∧ ∀ g ∈ fontGlyphs, g.length = 5 := by decide

/-- The host's placing of a word: the very next step from reset runs it. -/
theorem test_withFetchWord : passes (step (State.reset.withFetchWord 16 0x6A2B)) (fun t => getV t 10 == 0x2B) =
    true := by decide

/-- The interface's machine is this one. -/
theorem test_core : Sys2Proof.core.reset = State.reset := rfl

/-! ### The parameters as an argument (R7): other values than the defaults -/

/-- The spec's defaults but for the fields a test names. -/
def guardLow : Config := { config with pcGuard := 0xFFF }
def blankFont : Config := { config with font := Vector.replicate 80 0 }
def otherReset : Config := { config with resetI := 0x123, resetSp := 3, resetDt := 7 }

/-- T-ALU-12 and T-ALU-19, the note: "with `SUB_EQ_FLAG = 1` it would be `VF = 01`". -/
theorem test_param_subEqFlag : passes (execWith { config with subEqFlag := true } (.subReg 0 1) State.reset)
      (fun t => getV t 0 == 0 && getV t 15 == 1) = true ∧
    passes (execWith { config with subEqFlag := true } (.subnReg 0 1) State.reset)
      (fun t => getV t 0 == 0 && getV t 15 == 1) = true := by decide

/-- T-LDI-14: with `ANNN = illegal` the word `A300` halts, I unchanged. -/
theorem test_param_annn : passes (stepWith { config with annn := .illegal } (boot id 0xA300)) (fun t =>
    t.halted && t.pc == 0x202 && t.i == 0) = true := by decide

/-- D5, the alternative: `RET` with `SP = 0` is refused; with another SP it returns. -/
theorem test_param_retUnderflow : refusedWith (execWith { config with retUnderflow := .refuse } .ret State.reset)
      .retUnderflow = true ∧
    passes (execWith { config with retUnderflow := .refuse } .ret { State.reset with sp := 1 }) (fun t => t.sp == 0) =
      true := by decide

/-- `PC_GUARD = 0xFFF`: the step at 0xFFF does nothing, where the default fetches (T-MEM-7). -/
theorem test_param_pcGuard : passes (stepWith guardLow (setPc State.reset 0xFFF)) (fun t => t.pc == 0xFFF) = true ∧
    passes (stepWith config (setPc State.reset 0xFFF)) (fun t => t.pc == 0x1001) = true := by decide

/-- FONT: with a blank font `Fx65` at 0x000 loads 00 where the default loads F0 (T-IDX-19). -/
theorem test_param_font : passes (execWith blankFont (.loadRegs 0) (State.resetWith blankFont)) (fun t =>
      getV t 0 == 0x00) = true ∧
    passes (execWith config (.loadRegs 0) State.reset) (fun t => getV t 0 == 0xF0) = true := by decide

/-- RESET_I, RESET_SP, RESET_DT reach the reset state, RESET and LOAD. -/
theorem test_param_reset : (State.resetWith otherReset).i = 0x123 ∧
    passes (transactWith otherReset .reset State.reset) (fun t => t.sp == 3 && t.dt == 7) = true ∧
    passes (transactWith otherReset (.load []) State.reset) (fun t => t.i == 0x123 && t.sp == 3) = true := by decide

/-! ### Witnesses: states and operands that meet the hypotheses of each obligation -/

/-- The outcome of a step or instruction on a state, as a state (the state itself where there is none). -/
def nextOf (o : Host.Outcome State Fault Refusal) (s : State) : State :=
  match o with
  | .next t => t
  | .fault _ => s
  | .refused _ => s

theorem witness_running : State.reset.Running := ⟨rfl, by decide⟩
theorem witness_running_at_the_bound : (setPc State.reset 0xFFF).Running := ⟨rfl, by decide⟩

/-- StepRunsTheDecodedInstruction: halted; stalled at 0x1000; a legal and an illegal word at 0xFFF and 0x200. -/
theorem witness_step_halted : (raiseHalt State.reset).halted = true := rfl
theorem witness_step_stalled : (setPc State.reset 0x1000).halted = false ∧
    0x1000 ≤ (setPc State.reset 0x1000).pc.toNat := ⟨rfl, by decide⟩
theorem witness_step_legal : (setPc State.reset 0xFFF).halted = false ∧ (setPc State.reset 0xFFF).pc.toNat < 0x1000 ∧
    decodeWord (memReadWord (setPc State.reset 0xFFF).mem 0xFFF) = .ok (.sys 0x0F0) :=
  ⟨rfl, by decide, by decide⟩
theorem witness_step_illegal : (boot id 0xFFFF).halted = false ∧ (boot id 0xFFFF).pc.toNat < 0x1000 ∧
    decodeWord (memReadWord (boot id 0xFFFF).mem (boot id 0xFFFF).pc.toNat) = .error (.illegalWord 0xFFFF) :=
  ⟨rfl, by decide, by decide⟩

/-- DecodingAnEncodedInstructionGivesItBack, under both readings of `Annn`. -/
theorem witness_wf : (Instr.ldI 0xFFF).wfWith .loadIndex = true ∧ (Instr.drw 15 15 15).wfWith .illegal = true ∧
    (Instr.sys 0x0E1).wf = true := by decide

/-- EncodingADecodedWordGivesItBack. -/
theorem witness_decodes : decodeWordWith .loadIndex 0xAABC = .ok (.ldI 0xABC) ∧
    decodeWordWith .illegal 0x0FFF = .ok (.sys 0xFFF) := by decide

/-- IllegalWordsAreExactlyTheListed: each line of the table at the ends of its range, and the legal words beside. -/
theorem witness_illegal : ([0x5001, 0x500F, 0x8008, 0x800D, 0x800F, 0x9001, 0x900F, 0xE000, 0xE09D, 0xE09F, 0xE0A0,
      0xE0A2, 0xF006, 0xF008, 0xF064, 0xF066] : List Word).all refusesWord = true ∧
    ([0x5000, 0x8007, 0x800E, 0x9000, 0xE09E, 0xE0A1, 0xF007, 0xF065] : List Word).all (fun w => !refusesWord w) =
      true := by decide

/-- PlacedWordIsTheNextInstruction: at the edge of memory, and an address outside the two stored bytes. -/
theorem witness_placed : (setPc State.reset 0xFFF).mem.wf = true ∧ decodeTableWord 16 0x1234 = some (.jp 0x234) ∧
    0x001 % 4096 ≠ (setPc State.reset 0xFFF).pc.toNat % 4096 ∧
    0x001 % 4096 ≠ ((setPc State.reset 0xFFF).pc.toNat + 1) % 4096 := by decide

/-- NopAndSysOnlyAdvancePc: the greatest word of group 0. -/
theorem witness_group0 : (boot id 0x0FFF).Running ∧
    (memReadWord (boot id 0x0FFF).mem (boot id 0x0FFF).pc.toNat).toNat < 0x1000 ∧
    memReadWord (boot id 0x0FFF).mem (boot id 0x0FFF).pc.toNat ≠ 0x00E0 ∧
    memReadWord (boot id 0x0FFF).mem (boot id 0x0FFF).pc.toNat ≠ 0x00EE :=
  ⟨⟨rfl, by decide⟩, by decide, by decide +kernel, by decide +kernel⟩

/-- JumpV0AddsWithoutMasking: a sum of exactly 0x1000 (T-FLOW-18). -/
theorem witness_jpV0_stalls : 0x1000 ≤ (0xF02 : Addr).toNat + (getV (setV State.reset 0 0xFE) 0).toNat := by decide

/-- CallPushesTheReturnAddress, by a step. -/
theorem witness_call : (boot id 0x2300).Running ∧
    decodeWord (memReadWord (boot id 0x2300).mem (boot id 0x2300).pc.toNat) = .ok (.call 0x300) :=
  ⟨⟨rfl, by decide⟩, by decide⟩

/-- SixteenNestedCallsReturnInOrder: the longest chain. -/
theorem witness_sixteen : (List.replicate 16 ((0x202, 0x300) : Word × Addr)).length ≤ 16 := by decide

/-- JumpSetsPc: a jump to its own address. -/
theorem witness_self_jump : (boot id 0x1200).Running ∧
    decodeWord (memReadWord (boot id 0x1200).mem (boot id 0x1200).pc.toNat) = .ok (.jp 0x200) ∧
    (0x200 : Addr).toNat = (boot id 0x1200).pc.toNat := ⟨⟨rfl, by decide⟩, by decide, by decide⟩

/-- KeySkipsReadTheWholeByte: key 15 and the number 16. -/
theorem witness_key_number : (getV (setV State.reset 2 0x0F) 2).toNat = (15 : Fin 16).val ∧
    16 ≤ (getV (setV State.reset 2 0x10) 2).toNat := by decide

/-- SkipsPassOverExactlyOneWord: a skip whose condition holds and one whose condition does not. -/
theorem witness_skip_taken : (boot id 0x3000).Running ∧
    decodeWord (memReadWord (boot id 0x3000).mem (boot id 0x3000).pc.toNat) = .ok (.seImm 0 0) ∧
    SkipCondition (boot id 0x3000) (.seImm 0 0) (getV (boot id 0x3000) 0 = 0) ∧ getV (boot id 0x3000) 0 = 0 :=
  ⟨⟨rfl, by decide⟩, by decide, .seImm 0 0, by decide⟩
theorem witness_skip_not_taken : (boot id 0x4000).Running ∧
    decodeWord (memReadWord (boot id 0x4000).mem (boot id 0x4000).pc.toNat) = .ok (.sneImm 0 0) ∧
    SkipCondition (boot id 0x4000) (.sneImm 0 0) (getV (boot id 0x4000) 0 ≠ 0) ∧ ¬ getV (boot id 0x4000) 0 ≠ 0 :=
  ⟨⟨rfl, by decide⟩, by decide, .sneImm 0 0, by decide⟩

/-- AddSetsCarry, SubtractionsSetStrictComparison, ShiftsActOnVxInPlace, DrawingTwiceRestoresThePlane:
registers that are not VF; a clear plane. -/
theorem witness_not_vf : (14 : Reg) ≠ 15 ∧ (0 : Reg) ≠ 15 := by decide
theorem witness_clear_plane : ∀ x y : Nat, pixel State.reset.fb x y = false := fun x y => by simp [pixel, State.reset, State.resetWith]

/-- KeyWaitTakesTheLowestKey: key 14, and no key but 15. -/
theorem witness_key_14 : (14 : Fin 16).val ≤ 14 ∧ (withKeys [14, 15] State.reset).key[(14 : Fin 16)] = true ∧
    ∀ j : Fin 16, j < 14 → (withKeys [14, 15] State.reset).key[j] = false := by decide
theorem witness_key_15_only : ∀ k : Fin 16, k.val ≤ 14 → (withKeys [15] State.reset).key[k] = false := by
  decide

/-- KeyWaitSpinsUnchanged and KeyWaitEndsWithAPress. -/
theorem witness_key_wait : (boot id 0xF30A).Running ∧
    decodeWord (memReadWord (boot id 0xF30A).mem (boot id 0xF30A).pc.toNat) = .ok (.ldVxK 3) ∧
    (∀ k : Fin 16, k.val ≤ 14 → (boot id 0xF30A).key[k] = false) ∧ 14 ≤ 14 :=
  ⟨⟨rfl, by decide⟩, by decide, by decide +kernel, by decide⟩

/-- TickCountsBothTimersDown: a timer at 1 and at 0. -/
theorem witness_tick : (setDt State.reset 1).dt.toNat > 0 ∧ (setDt State.reset 1).st.toNat = 0 ∧
    State.reset.dt.toNat = 0 ∧ (setSt State.reset 1).st.toNat > 0 := by decide

/-- BcdStoresThreeDigits, DumpStoresRegistersFromI, LoadAfterDumpChangesNothing: canonical memory; an address outside
the bytes stored from 0x000 and one outside those stored from 0xFFF. -/
theorem witness_memory : State.reset.mem.wf = true ∧ (∀ k < 3, 3 % 4096 ≠ effAddr State.reset k % 4096) ∧
    (∀ k ≤ (15 : Reg).val, 15 % 4096 ≠ effAddr (setI State.reset 0xFFF) k % 4096) := by decide

/-- DumpStoresRegistersFromI and LoadFillsRegistersFromI: the last register of the range and the first above it. -/
theorem witness_range : (2 : Reg) ≤ 2 ∧ (2 : Reg) < 3 := by decide

/-- InstructionsWriteOnlyTheirComponents, InstructionsWriteOnlyTheirRegisters, FlagWritersLeaveZeroOrOne,
HaltedUntilResetOrLoad, SoundTimerIsReadByNoInstruction: an instruction that answers, a register it does not name. -/
theorem witness_exec : exec (.addReg 0 1) State.reset =
    .next (setResultAndFlag State.reset 0 (0 + 0) (carryFlag 0 0)) := rfl
theorem witness_unnamed : ¬ (Instr.addReg 0 1).names 14 ∧
    ((Instr.addReg 0 1).writesFlag = true → (14 : Reg) ≠ 15) ∧ (Instr.addReg 0 1).writesFlag = true := by
  refine ⟨?_, fun _ => by decide, rfl⟩
  show ¬ (14 : Reg) = 0
  decide

/-- HaltedUntilResetOrLoad: the transactions that clear HALTED. -/
theorem witness_unhalt_reset : ∃ t : State, transact .reset (raiseHalt State.reset) = .next t ∧
    (raiseHalt State.reset).halted = true ∧ t.halted = false := ⟨_, rfl, rfl, rfl⟩
theorem witness_unhalt_load : ∃ t : State, transact (.load []) (raiseHalt State.reset) = .next t ∧
    (raiseHalt State.reset).halted = true ∧ t.halted = false := ⟨_, rfl, rfl, rfl⟩

/-- OnlyAnIllegalWordHalts. -/
theorem witness_halts : ∃ t : State, step (boot id 0xFFFF) = .next t ∧ (boot id 0xFFFF).halted = false ∧
    t.halted = true := ⟨nextOf (step (boot id 0xFFFF)) (boot id 0xFFFF), by rfl, rfl, by decide⟩

/-- StalledUntilResetOrLoad. -/
theorem witness_stalled : 0x1000 ≤ (setPc State.reset 0x1000).pc.toNat ∧
    (∀ x ∈ ([.step, .tick, .setKey 15 true, .snapshot] : List Transaction),
      x ≠ .reset ∧ ∀ bytes : List Byte, x ≠ .load bytes) ∧
    ∃ t : State, runSession [.step, .tick, .setKey 15 true, .snapshot] (setPc State.reset 0x1000) = .next t :=
  ⟨by decide, by simp, _, rfl⟩

/-- StepKeepsTheInvariant, SessionsKeepTheInvariant: a state with the invariant whose step and session answer, with PC
at its bound. -/
theorem witness_invariant : (setPc State.reset 0x10FE).Inv ∧
    step (setPc State.reset 0x10FE) = .next (setPc State.reset 0x10FE) ∧
    ∃ t : State, runSession [.step, .tick] (setPc State.reset 0x10FE) = .next t :=
  ⟨⟨rfl, by decide, by decide⟩, rfl, _, rfl⟩

/-- ResetGivesTheDecidedValues: the last byte of the font and the first beyond. -/
theorem witness_font_end : 79 < 80 ∧ 80 < 4096 ∧ 80 ≤ 80 := by decide

/-- LoadPlacesTheProgram: 3584 bytes and 3585; the first address below the image. -/
theorem witness_load : (List.replicate 3584 (0xAA : Byte)).length ≤ 3584 ∧
    3584 < (List.replicate 3585 (0xAA : Byte)).length ∧ 0x1FF < 4096 ∧ 0x1FF < 0x200 := by
  rw [List.length_replicate, List.length_replicate]
  decide

/-- SetKeyWritesOneKey: indices 15 and 16. -/
theorem witness_setKey : 15 < 16 ∧ 16 ≤ 16 ∧ 14 ≠ 15 := by decide

/-- SnapshotIsThePlaneRowByRow, DrawXorsTheSpriteOnTheTorus, LogicalOperationsLeaveVfAlone: the last column, row and
bit. -/
theorem witness_last_pixel : 63 < 64 ∧ 31 < 32 ∧ 7 < 8 := by decide

end Sys2Proof.Tests
end

section
/-! The reset state's values that the source itself gives (spec 10_state R41, R43, R44, R47). -/

namespace Sys2Proof.Machine

/-- The plane after reset is the one CLS leaves. -/
theorem State.reset_fb_eq_clearPlane : State.reset.fb = clearPlane := rfl

theorem State.reset_key_getElem (k : Fin 16) : State.reset.key[k] = false := by
  rw [State.reset_key, Fin.getElem_fin, Vector.getElem_replicate]

/-- Settles O56: the plane is the cleared one, every key reads up, and PC and HALTED are fields of the reset state. -/
theorem resetGivesTheSourceValues : Obligations.ResetGivesTheSourceValues := by
  unfold Obligations.ResetGivesTheSourceValues
  have plane_clear (x y : Nat) : pixel State.reset.fb x y = false := by
    rw [State.reset_fb_eq_clearPlane, pixel_clearPlane]
  exact ⟨State.reset_pc, plane_clear, State.reset_key_getElem, State.reset_halted⟩

end Sys2Proof.Machine
end

section
/-! What a read of memory returns, as numbers (spec 20_memory R53). -/

namespace Sys2Proof.Machine

/-- The first of two bytes is the high one (R53, R55). -/
theorem memReadWord_toNat (m : Memory) (a : Nat) (cfg : Config) :
    (memReadWord m a cfg).toNat = (memRead m a cfg).toNat * 256 + (memRead m (a + 1) cfg).toNat := by
  have low_lt : (memRead m (a + 1) cfg).toNat < 2 ^ 8 := (memRead m (a + 1) cfg).isLt
  rw [memReadWord, BitVec.toNat_append, ← Nat.shiftLeft_add_eq_or_of_lt low_lt, Nat.shiftLeft_eq]

/-- Settles O7: a read wraps (`memRead_mod`), so each byte of the word may be read at its own reduced address. -/
theorem memoryReadIsBigEndianAndWraps : Obligations.MemoryReadIsBigEndianAndWraps := by
  unfold Obligations.MemoryReadIsBigEndianAndWraps
  intro m a
  have wraps (b : Nat) : memRead m (b % 4096) = memRead m b := memRead_mod m b
  refine ⟨(wraps a).symm, ?_⟩
  rw [wraps, wraps, memReadWord_toNat]

end Sys2Proof.Machine
end

section
/-! The bits of a word under the masks of the opcode table (spec 30_encoding R77, R80): the fields the mask keeps, every
other nibble zero. -/

namespace Sys2Proof

theorem formatNNN_fields (op : Word) : opGroup op ++ opNnn op = op :=
  (BitVec.extractLsb'_append_extractLsb'_eq_extractLsb' rfl).trans BitVec.extractLsb'_eq_self

theorem formatXKK_fields (op : Word) : opGroup op ++ op.extractLsb' 8 4 ++ opKk op = op := by
  have high : opGroup op ++ op.extractLsb' 8 4 = op.extractLsb' 8 8 :=
    BitVec.extractLsb'_append_extractLsb'_eq_extractLsb' rfl
  rw [high]
  exact (BitVec.extractLsb'_append_extractLsb'_eq_extractLsb' rfl).trans BitVec.extractLsb'_eq_self

theorem formatXYN_fields (op : Word) :
    opGroup op ++ op.extractLsb' 8 4 ++ op.extractLsb' 4 4 ++ opN op = op := by
  have low : op.extractLsb' 4 4 ++ opN op = opKk op :=
    BitVec.extractLsb'_append_extractLsb'_eq_extractLsb' rfl
  rw [BitVec.append_assoc, low]
  exact formatXKK_fields op

theorem and_F000 (op : Word) : op &&& 0xF000 = encNNN (opGroup op) 0 := by
  calc op &&& 0xF000 = (opGroup op ++ opNnn op) &&& (BitVec.allOnes 4 ++ 0#12) := by rw [formatNNN_fields]; rfl
    _ = encNNN (opGroup op) 0 := by rw [BitVec.and_append, BitVec.and_allOnes, BitVec.and_zero]; rfl

theorem and_F0FF (op : Word) : op &&& 0xF0FF = encXKK (opGroup op) 0 (opKk op) := by
  calc op &&& 0xF0FF
      = (opGroup op ++ op.extractLsb' 8 4 ++ opKk op) &&& (BitVec.allOnes 4 ++ 0#4 ++ BitVec.allOnes 8) := by
        rw [formatXKK_fields]; rfl
    _ = encXKK (opGroup op) 0 (opKk op) := by
        simp only [BitVec.and_append, BitVec.and_allOnes, BitVec.and_zero]; rfl

theorem and_F00F (op : Word) : op &&& 0xF00F = encXYN (opGroup op) 0 0 (opN op) := by
  calc op &&& 0xF00F
      = (opGroup op ++ op.extractLsb' 8 4 ++ op.extractLsb' 4 4 ++ opN op) &&&
          (BitVec.allOnes 4 ++ 0#4 ++ 0#4 ++ BitVec.allOnes 4) := by
        rw [formatXYN_fields]; rfl
    _ = encXYN (opGroup op) 0 0 (opN op) := by
        simp only [BitVec.and_append, BitVec.and_allOnes, BitVec.and_zero]; rfl

end Sys2Proof
end

section
/-! Which words match a row of the opcode table, in the fields of the word (spec 30_encoding R80, R83). -/

namespace Sys2Proof

theorem OpRow.hits_iff (r : OpRow) (op : Word) : r.hits op = true ↔ op &&& r.mask = r.value := beq_iff_eq

/-- Where the mask keeps the group nibble, a word that matches has the row's group. -/
theorem OpRow.opGroup_eq_of_hits {r : OpRow} {op : Word} (hmask : opGroup r.mask = 0xF) (h : r.hits op = true) :
    opGroup r.value = opGroup op := by
  calc opGroup r.value = opGroup (op &&& r.mask) := congrArg opGroup ((r.hits_iff op).mp h).symm
    _ = opGroup op &&& opGroup r.mask := BitVec.extractLsb'_and
    _ = opGroup op := by rw [hmask]; exact BitVec.and_allOnes

variable {op v : Word} {g : Nibble} {build : Word → Instr}

theorem hits_FFFF_iff : (OpRow.mk 0xFFFF v build).hits op = true ↔ op = v := by
  rw [OpRow.hits_iff, show op &&& 0xFFFF = op from BitVec.and_allOnes]

theorem hits_F000 (hg : opGroup op = g) (hv : encNNN g 0 = v) : (OpRow.mk 0xF000 v build).hits op = true := by
  rw [OpRow.hits_iff, and_F000, hg, hv]

theorem hits_F00F_iff (hg : opGroup op = g) (hv : encXYN g 0 0 (opN v) = v) :
    (OpRow.mk 0xF00F v build).hits op = true ↔ opN op = opN v := by
  rw [OpRow.hits_iff, and_F00F, hg]
  refine ⟨fun (h : _ = v) => ?_, fun h => ?_⟩
  · rw [← h, opN_encXYN]
  · rw [h, hv]

theorem hits_F0FF_iff (hg : opGroup op = g) (hv : encXKK g 0 (opKk v) = v) :
    (OpRow.mk 0xF0FF v build).hits op = true ↔ opKk op = opKk v := by
  rw [OpRow.hits_iff, and_F0FF, hg]
  refine ⟨fun (h : _ = v) => ?_, fun h => ?_⟩
  · rw [← h, opKk_encXKK]
  · rw [h, hv]

end Sys2Proof
end

section
/-! The first matching row, one group at a time: only the rows of a word's group can match it (spec 30_encoding R80). -/

namespace Sys2Proof

/-- The first matching row over any list of rows; over the whole table it is `decodeByTable`. -/
def decodeByRows (rows : List OpRow) (op : Word) : Except DecodeError Instr :=
  match rows.find? (fun r => r.hits op) with
  | some r => .ok (r.build op)
  | none => .error (.illegalWord op)

theorem decodeByTable_eq_decodeByRows (annn : AnnnMeaning) (op : Word) :
    decodeByTable annn op = decodeByRows (opcodeTable annn) op := rfl

theorem decodeByRows_nil (op : Word) : decodeByRows [] op = .error (.illegalWord op) := rfl

theorem decodeByRows_cons (r : OpRow) (rows : List OpRow) (op : Word) :
    decodeByRows (r :: rows) op = if r.hits op then .ok (r.build op) else decodeByRows rows op := by
  unfold decodeByRows
  rw [List.find?_cons]
  cases r.hits op <;> rfl

/-- Rows that no matching row is among may be left out. -/
theorem decodeByRows_filter {rows : List OpRow} {op : Word} {p : OpRow → Bool}
    (hp : ∀ r ∈ rows, r.hits op = true → p r = true) : decodeByRows (rows.filter p) op = decodeByRows rows op := by
  have same_row : (rows.filter p).find? (fun r => r.hits op) = rows.find? (fun r => r.hits op) := by
    rw [List.find?_filter]
    refine List.find?_congr fun r hr => Bool.eq_iff_iff.mpr ?_
    rw [decide_eq_true_iff]
    exact and_iff_right_of_imp (hp r hr)
  rw [decodeByRows, decodeByRows, same_row]

/-- The rows of the table whose fixed group nibble is `g`, in table order. -/
def rowsOfGroup (annn : AnnnMeaning) (g : Nibble) : List OpRow :=
  (opcodeTable annn).filter (fun r => opGroup r.value = g)

/-- Every mask of the table keeps the group nibble. -/
theorem opGroup_mask_of_mem (annn : AnnnMeaning) : ∀ r ∈ opcodeTable annn, opGroup r.mask = 0xF := by
  cases annn <;> decide

variable {annn : AnnnMeaning} {op : Word} {g : Nibble} {build : Word → Instr}

theorem decodeByTable_eq_of_group (hg : opGroup op = g) :
    decodeByTable annn op = decodeByRows (rowsOfGroup annn g) op := by
  rw [decodeByTable_eq_decodeByRows, rowsOfGroup, decodeByRows_filter]
  intro r hr hit
  rw [decide_eq_true_iff, OpRow.opGroup_eq_of_hits (opGroup_mask_of_mem annn r hr) hit, hg]

/-! ### The groups, by the fixed fields of their rows -/

theorem decodeByTable_of_row_F000 (hg : opGroup op = g)
    (hrows : rowsOfGroup annn g = [⟨0xF000, encNNN g 0, build⟩]) : decodeByTable annn op = .ok (build op) := by
  rw [decodeByTable_eq_of_group hg, hrows, decodeByRows_cons, if_pos (hits_F000 hg rfl)]

theorem decodeByTable_of_row_F00F (hg : opGroup op = g)
    (hrows : rowsOfGroup annn g = [⟨0xF00F, encXYN g 0 0 0, build⟩]) :
    decodeByTable annn op = if opN op = 0 then .ok (build op) else .error (.illegalWord op) := by
  have hit : (OpRow.mk 0xF00F (encXYN g 0 0 0) build).hits op = true ↔ opN op = 0 := by
    rw [hits_F00F_iff hg (by rw [opN_encXYN]), opN_encXYN]
  simp only [decodeByTable_eq_of_group hg, hrows, decodeByRows_cons, decodeByRows_nil, hit]

theorem decodeByTable_of_no_row (hg : opGroup op = g) (hrows : rowsOfGroup annn g = []) :
    decodeByTable annn op = .error (.illegalWord op) := by
  rw [decodeByTable_eq_of_group hg, hrows, decodeByRows_nil]

/-- Group 0: the three fixed words stand before the general `0nnn`. -/
theorem decodeByTable_group0 (hg : opGroup op = 0x0) : decodeByTable annn op = .ok (decodeGroup0 op) := by
  have hrows : rowsOfGroup annn 0x0 = opRowsLow.take 4 := by cases annn <;> rfl
  rw [decodeByTable_eq_of_group hg, hrows]
  simp only [opRowsLow, List.take, decodeByRows_cons, hits_FFFF_iff]
  rw [if_pos (hits_F000 (v := 0x0000) hg rfl)]
  simp only [decodeGroup0, apply_ite Except.ok]

/-- Group 8: the rows are told apart by the low nibble. -/
theorem decodeByTable_group8 (hg : opGroup op = 0x8) : decodeByTable annn op = decodeGroup8 op := by
  have hrows : rowsOfGroup annn 0x8 = opRowsAlu.take 9 := by cases annn <;> rfl
  rw [decodeByTable_eq_of_group hg, hrows, decodeGroup8]
  simp (disch := decide) only [opRowsAlu, List.take, decodeByRows_cons, decodeByRows_nil, hits_F00F_iff hg]
  obtain ⟨⟨n, hn⟩⟩ := opN op
  interval_cases n <;> rfl

/-- Group E: the rows are told apart by the low byte. -/
theorem decodeByTable_groupE (hg : opGroup op = 0xE) : decodeByTable annn op = decodeGroupE op := by
  have hrows : rowsOfGroup annn 0xE = (opRowsHigh.drop 3).take 2 := by cases annn <;> rfl
  rw [decodeByTable_eq_of_group hg, hrows]
  simp (disch := decide) only [opRowsHigh, List.drop, List.take, decodeByRows_cons, decodeByRows_nil,
    hits_F0FF_iff hg]
  rfl

/-- Group F: the rows are told apart by the low byte. -/
theorem decodeByTable_groupF (hg : opGroup op = 0xF) : decodeByTable annn op = decodeGroupF op := by
  have hrows : rowsOfGroup annn 0xF = opRowsHigh.drop 5 := by cases annn <;> rfl
  rw [decodeByTable_eq_of_group hg, hrows]
  simp (disch := decide) only [opRowsHigh, List.drop, decodeByRows_cons, decodeByRows_nil, hits_F0FF_iff hg]
  rfl

theorem decodeByTable_eq_decodeWordWith (annn : AnnnMeaning) (op : Word) :
    decodeByTable annn op = decodeWordWith annn op := by
  have group {k : Nat} (h : (opGroup op).toNat = k) : opGroup op = BitVec.ofNat 4 k := by
    rw [← h, BitVec.ofNat_toNat, BitVec.setWidth_eq]
  unfold decodeWordWith
  split
  case h_1 h => exact decodeByTable_group0 (group h)
  case h_2 h | h_3 h | h_4 h | h_5 h | h_7 h | h_8 h | h_12 h | h_13 h | h_14 h =>
    apply decodeByTable_of_row_F000 (group h)
    cases annn <;> rfl
  case h_6 h | h_10 h =>
    apply decodeByTable_of_row_F00F (group h)
    cases annn <;> rfl
  case h_9 h => exact decodeByTable_group8 (group h)
  case h_11 h =>
    cases annn with
    | loadIndex =>
      apply decodeByTable_of_row_F000 (group h)
      rfl
    | illegal => exact decodeByTable_of_no_row (group h) rfl
  case h_15 h => exact decodeByTable_groupE (group h)
  case h_16 h => exact decodeByTable_groupF (group h)
  case h_17 =>
    have lt : (opGroup op).toNat < 16 := (opGroup op).isLt
    simp only [imp_false] at *
    omega

end Sys2Proof
end

section
/-! How many rows of the opcode table a word can match (spec 30_encoding R80, "no other two rows overlap"). -/

namespace Sys2Proof

/-- The two rows ask for different values in a bit that both masks keep. -/
abbrev OpRow.Excludes (r r' : OpRow) : Prop := r.value &&& r'.mask ≠ r'.value &&& r.mask

theorem OpRow.Excludes.not_hits {r r' : OpRow} {op : Word} (hne : r.Excludes r') (h : r.hits op = true) :
    ¬ r'.hits op = true := by
  intro h'
  rw [OpRow.hits_iff] at h h'
  apply hne
  rw [← h, ← h', BitVec.and_assoc, BitVec.and_assoc, BitVec.and_comm r.mask]

theorem length_filter_hits_le_one {rows : List OpRow} (hrows : rows.Pairwise OpRow.Excludes) (op : Word) :
    (rows.filter (fun r => r.hits op)).length ≤ 1 := by
  have excl := hrows.filter (fun r => r.hits op)
  have hit : ∀ r ∈ rows.filter (fun r => r.hits op), r.hits op = true := fun r hr => (List.mem_filter.mp hr).2
  generalize rows.filter (fun r => r.hits op) = matching at excl hit
  match matching with
  | [] => exact Nat.zero_le 1
  | [_] => exact le_rfl
  | r :: r' :: _ =>
    have hne : r.Excludes r' := List.rel_of_pairwise_cons excl (by simp)
    exact absurd (hit r' (by simp)) (hne.not_hits (hit r (by simp)))

/-- Without the three fixed words, which stand first, no two rows overlap. -/
theorem opcodeTable_drop_three_excludes (annn : AnnnMeaning) :
    ((opcodeTable annn).drop 3).Pairwise OpRow.Excludes := by
  cases annn <;> decide

theorem opcodeTable_eq_fixed_append (annn : AnnnMeaning) :
    opcodeTable annn = opRowsLow.take 3 ++ (opcodeTable annn).drop 3 := rfl

theorem filter_hits_fixed_eq_nil {op : Word} (h : ¬ (op = 0x0000 ∨ op = 0x00E0 ∨ op = 0x00EE)) :
    (opRowsLow.take 3).filter (fun r => r.hits op) = [] := by
  obtain ⟨nop, cls, ret⟩ : op ≠ 0x0000 ∧ op ≠ 0x00E0 ∧ op ≠ 0x00EE := by simpa only [not_or] using h
  simp only [opRowsLow, List.take, List.filter_cons, hits_FFFF_iff, nop, cls, ret, if_false, List.filter_nil]

theorem length_filter_hits_opcodeTable_le (annn : AnnnMeaning) (op : Word) :
    ((opcodeTable annn).filter (fun r => r.hits op)).length ≤
      if op = 0x0000 ∨ op = 0x00E0 ∨ op = 0x00EE then 2 else 1 := by
  split
  case isTrue fixed =>
    obtain rfl | rfl | rfl := fixed <;> cases annn <;> decide
  case isFalse h =>
    rw [opcodeTable_eq_fixed_append, List.filter_append, filter_hits_fixed_eq_nil h, List.nil_append]
    exact length_filter_hits_le_one (opcodeTable_drop_three_excludes annn) op

/-- Settles O5: the decoder group by group against the rows of that group, and the overlaps by the bits that two masks
share. -/
theorem decoderIsTheFirstMatchingRow : Obligations.DecoderIsTheFirstMatchingRow := by
  unfold Obligations.DecoderIsTheFirstMatchingRow
  exact fun annn op => ⟨(decodeByTable_eq_decodeWordWith annn op).symm, length_filter_hits_opcodeTable_le annn op⟩

end Sys2Proof
end

section
/-! Components that read as before, over several updates (spec 10_state R20, R34). -/

namespace Sys2Proof.Machine

theorem Component.Same.trans {c : Component} {s t u : State} (h : c.Same s t) (h' : c.Same t u) : c.Same s u := by
  cases c with
  | regs | stack | mem | key => exact fun k => (h' k).trans (h k)
  | fb => exact fun x y => (h' x y).trans (h x y)
  | i | pc | sp | dt | st | halted | draws => exact Eq.trans h' h

/-- Two updates one after the other change at most what either changes. -/
theorem SameBut.trans {changed changed' : List Component} {s t u : State} (h : SameBut changed s t)
    (h' : SameBut changed' t u) : SameBut (changed ++ changed') s u := fun c hc => by
  obtain ⟨hfirst, hthen⟩ := not_or.mp (mt List.mem_append.mpr hc)
  exact (h c hfirst).trans (h' c hthen)

theorem SameBut.mono {changed changed' : List Component} {s t : State} (h : SameBut changed s t)
    (hsub : changed ⊆ changed') : SameBut changed' s t := fun c hc => h c (mt (@hsub c) hc)

theorem sameBut_setPc (s : State) (w : Word) : SameBut [.pc] s (setPc s w) := fun c hc => by
  cases c with
  | pc => exact absurd (List.mem_singleton_self _) hc
  | regs | stack | mem | key => exact fun _ => rfl
  | fb => exact fun _ _ => rfl
  | i | sp | dt | st | halted | draws => exact rfl

theorem sameBut_pushReturn (s : State) : SameBut [.stack, .sp] s (pushReturn s) := fun c hc => by
  cases c with
  | stack | sp => exact absurd (by decide) hc
  | regs | mem | key => exact fun _ => rfl
  | fb => exact fun _ _ => rfl
  | i | pc | dt | st | halted | draws => exact rfl

end Sys2Proof.Machine
end

section
/-! The step of a CPU that is neither halted nor stalled (spec 40_step_cycle_and_flow R100). -/

namespace Sys2Proof.Machine

theorem State.Running.pc_lt {s : State} (h : s.Running) : s.pc.toNat < 0x1000 := (stalled_eq_false s).mp h.2

/-- The word fetched is below the stall's boundary, so the advance does not wrap. -/
theorem State.Running.advancePc_pc_toNat {s : State} (h : s.Running) :
    (advancePc s).pc.toNat = s.pc.toNat + 2 := by
  have hlt := h.pc_lt
  rw [advancePc_pc]
  bv_omega

theorem step_of_decodeWord_ok {s : State} {i : Instr} (h : s.Running)
    (hdec : decodeWord (memReadWord s.mem s.pc.toNat) = .ok i) : step s = exec i (advancePc s) := by
  obtain ⟨running, inRange⟩ := h
  rw [step_eq, running, inRange, fetchWord, hdec]
  rfl

end Sys2Proof.Machine
end

section
/-! NOP, SYS and the words of group 0 (spec 40_step_cycle_and_flow R101, R102; 30_encoding R80). -/

namespace Sys2Proof

/-- Group 0 is the words below 0x1000. -/
theorem opGroup_eq_zero_iff (op : Word) : opGroup op = 0 ↔ op.toNat < 0x1000 := by
  rw [← BitVec.toNat_inj, opGroup, BitVec.extractLsb'_toNat, Nat.shiftRight_eq_div_pow]
  have hlt : op.toNat < 2 ^ 16 := op.isLt
  change op.toNat / 2 ^ 12 % 2 ^ 4 = 0 ↔ op.toNat < 0x1000
  omega

theorem decodeWord_of_group0 {op : Word} (hg : opGroup op = 0) : decodeWord op = .ok (decodeGroup0 op) := by
  rw [decodeWord, decodeWordWith, hg]
  rfl

/-- The two words of group 0 that are listed before `0000` and `0nnn` are the only ones that are neither (R85). -/
theorem decodeGroup0_eq_nop_or_sys {op : Word} (hcls : op ≠ 0x00E0) (hret : op ≠ 0x00EE) :
    decodeGroup0 op = .nop ∨ decodeGroup0 op = .sys (opNnn op) := by
  rw [decodeGroup0, if_neg hcls, if_neg hret]
  exact ite_eq_or_eq _ _ _

namespace Machine

theorem exec_nop (s : State) : exec .nop s = .next s := rfl

theorem exec_sys (nnn : Addr) (s : State) : exec (.sys nnn) s = .next s := rfl

theorem exec_decodeGroup0 {op : Word} (hcls : op ≠ 0x00E0) (hret : op ≠ 0x00EE) (s : State) :
    exec (decodeGroup0 op) s = .next s := by
  obtain hnop | hsys := decodeGroup0_eq_nop_or_sys hcls hret
  · rw [hnop, exec_nop]
  · rw [hsys, exec_sys]

/-- Settles O9: a word below 0x1000 is in group 0, where every word but CLS and RET is one of the two instructions that
answer the state they are given. -/
theorem nopAndSysOnlyAdvancePc : Obligations.NopAndSysOnlyAdvancePc := by
  unfold Obligations.NopAndSysOnlyAdvancePc
  refine ⟨exec_nop, exec_sys, fun s running hlow hcls hret => ?_⟩
  have hdec := decodeWord_of_group0 ((opGroup_eq_zero_iff _).mpr hlow)
  calc step s = exec (decodeGroup0 (memReadWord s.mem s.pc.toNat)) (advancePc s) :=
        step_of_decodeWord_ok running hdec
    _ = .next (advancePc s) := exec_decodeGroup0 hcls hret _

end Machine
end Sys2Proof
end

section
/-! CALL: the push, then the jump (spec 40_step_cycle_and_flow R105). -/

namespace Sys2Proof.Machine

@[simp] theorem targetOf_toNat (nnn : Addr) : (targetOf nnn).toNat = nnn.toNat :=
  BitVec.toNat_setWidth_of_le (by decide)

theorem pushReturn_sp_val (s : State) : (pushReturn s).sp.val = (s.sp.val + 1) % 16 := Fin.val_add s.sp 1

/-- The slot the advanced pointer names holds the pushed PC. -/
theorem pushReturn_top (s : State) : (pushReturn s).stack[(pushReturn s).sp] = s.pc :=
  (pushReturn_slot s (s.sp + 1)).trans (if_pos rfl)

theorem pushReturn_slot_of_ne_top (s : State) {k : Fin 16} (hk : k ≠ (pushReturn s).sp) :
    (pushReturn s).stack[k] = s.stack[k] :=
  (pushReturn_slot s k).trans (if_neg hk)

theorem exec_call (nnn : Addr) (s : State) :
    exec (.call nnn) s = .next (setPc (pushReturn s) (targetOf nnn)) := rfl

theorem sameBut_call (nnn : Addr) (s : State) :
    SameBut [.pc, .stack, .sp] s (setPc (pushReturn s) (targetOf nnn)) :=
  ((sameBut_pushReturn s).trans (sameBut_setPc (pushReturn s) (targetOf nnn))).mono (by decide)

/-- Settles O12: CALL is a push followed by a jump, and the jump leaves the stack and its pointer as the push set them. -/
theorem callPushesTheReturnAddress : Obligations.CallPushesTheReturnAddress := by
  unfold Obligations.CallPushesTheReturnAddress
  constructor
  · intro nnn s
    exact ⟨_, exec_call nnn s, pushReturn_sp_val s, pushReturn_top s, fun _ => pushReturn_slot_of_ne_top s,
      targetOf_toNat nnn, sameBut_call nnn s⟩
  · intro nnn s running hdec
    have hstep := (step_of_decodeWord_ok running hdec).trans (exec_call nnn (advancePc s))
    have htop := (congrArg BitVec.toNat (pushReturn_top (advancePc s))).trans running.advancePc_pc_toNat
    exact ⟨_, hstep, htop, targetOf_toNat nnn⟩

end Sys2Proof.Machine
end

section
/-! The six skips: what each does, by its condition (spec 41_skips R110 to R114; 45_keypad R164, R165). -/

namespace Sys2Proof.Machine

/-- Every skip is `skipIf` of a test that decides its condition. -/
theorem SkipCondition.exec_eq_skipIf {s : State} {i : Instr} {c : Prop} (h : SkipCondition s i c) :
    ∃ b : Bool, (b = true ↔ c) ∧ exec i s = .next (skipIf b s) := by
  cases h with
  | seImm | seReg => exact ⟨_, beq_iff_eq, rfl⟩
  | sneImm | sneReg => exact ⟨_, bne_iff_ne, rfl⟩
  | skp => exact ⟨_, Iff.rfl, rfl⟩
  | sknp => exact ⟨_, Iff.of_eq (Bool.not_eq_true' _), rfl⟩

theorem SkipCondition.exec_eq {s : State} {i : Instr} {c : Prop} [Decidable c] (h : SkipCondition s i c) :
    exec i s = .next { s with pc := if c then s.pc + 2 else s.pc } := by
  obtain ⟨b, hb, hexec⟩ := h.exec_eq_skipIf
  rw [hexec, skipIf_eq]
  simp only [hb]

/-- Settles O16: the four register-compare skips are four of the six skips with a condition. -/
theorem compareSkipsTestEquality : Obligations.CompareSkipsTestEquality := by
  unfold Obligations.CompareSkipsTestEquality
  exact ⟨fun x kk _ => (SkipCondition.seImm x kk).exec_eq, fun x kk _ => (SkipCondition.sneImm x kk).exec_eq,
    fun x y _ => (SkipCondition.seReg x y).exec_eq, fun x y _ => (SkipCondition.sneReg x y).exec_eq⟩

/-- A skip tests registers and keys only, so the fetch advance leaves its condition as it was. -/
theorem SkipCondition.at_advancePc {s : State} {i : Instr} {c : Prop} (h : SkipCondition s i c) :
    SkipCondition (advancePc s) i c := by
  cases h with
  | seImm x kk => exact .seImm x kk
  | sneImm x kk => exact .sneImm x kk
  | seReg x y => exact .seReg x y
  | sneReg x y => exact .sneReg x y
  | skp x => exact .skp x
  | sknp x => exact .sknp x

/-- Settles O18: the step runs the skip on the advanced PC, and the second advance makes 4 of 2. -/
theorem skipsPassOverExactlyOneWord : Obligations.SkipsPassOverExactlyOneWord := by
  unfold Obligations.SkipsPassOverExactlyOneWord
  classical
  intro s i c running hdec hskip
  have hstep : step s = .next { s with pc := if c then s.pc + 2 + 2 else s.pc + 2 } :=
    (step_of_decodeWord_ok running hdec).trans hskip.at_advancePc.exec_eq
  have twice : s.pc + 2 + 2 = s.pc + 4 := BitVec.add_assoc s.pc 2 2
  refine ⟨fun taken => ?_, fun notTaken => ?_⟩
  · rw [hstep, if_pos taken, twice]
  · rw [hstep, if_neg notTaken]

end Sys2Proof.Machine
end

section
/-! LD Vx, kk and ADD Vx, kk: one register written, without a flag (spec 42_load_immediate_random R120, R121). -/

namespace Sys2Proof.Machine

theorem sameRegsBut_setV (s : State) (x : Reg) (b : Byte) : SameRegsBut [x] s (setV s x b) :=
  fun _ hr => getV_setV_ne s b (List.ne_of_not_mem_cons hr)

theorem sameBut_setV (s : State) (x : Reg) (b : Byte) : SameBut [.regs] s (setV s x b) := fun c hc => by
  cases c with
  | regs => exact absurd (List.mem_singleton_self _) hc
  | stack | mem | key => exact fun _ => rfl
  | fb => exact fun _ _ => rfl
  | i | pc | sp | dt | st | halted | draws => exact rfl

theorem exec_ldImm (x : Reg) (kk : Byte) (s : State) : exec (.ldImm x kk) s = .next (setV s x kk) := rfl

theorem exec_addImm (x : Reg) (kk : Byte) (s : State) :
    exec (.addImm x kk) s = .next (setV s x (getV s x + kk)) := rfl

/-- Settles O19: the next state is one register write. -/
theorem loadImmediateSetsVx : Obligations.LoadImmediateSetsVx := by
  unfold Obligations.LoadImmediateSetsVx
  intro x kk s
  exact ⟨_, exec_ldImm x kk s, getV_setV_same s x kk, sameRegsBut_setV s x kk, sameBut_setV s x kk⟩

/-- Settles O20: the next state is one register write, of a sum of bytes, which wraps at 256. -/
theorem addImmediateWrapsWithoutFlag : Obligations.AddImmediateWrapsWithoutFlag := by
  unfold Obligations.AddImmediateWrapsWithoutFlag
  intro x kk s
  have hsum : (getV (setV s x (getV s x + kk)) x).toNat = ((getV s x).toNat + kk.toNat) % 256 := by
    rw [getV_setV_same, BitVec.toNat_add]
  exact ⟨_, exec_addImm x kk s, hsum, sameRegsBut_setV s x _, sameBut_setV s x _⟩

end Sys2Proof.Machine
end

section
/-! LD Vx, Vy: one register written, with another's byte (spec 43_alu R130). -/

namespace Sys2Proof.Machine

theorem exec_ldReg (x y : Reg) (s : State) : exec (.ldReg x y) s = .next (setV s x (getV s y)) := rfl

/-- Settles O23: the next state is one register write, of the byte `Vy` held; nothing is special about `x = y` or
about VF on either side. -/
theorem copyRegister : Obligations.CopyRegister := by
  unfold Obligations.CopyRegister
  intro x y s
  exact ⟨_, exec_ldReg x y s, getV_setV_same s x _, sameRegsBut_setV s x _, sameBut_setV s x _⟩

end Sys2Proof.Machine
end

section
/-! SNAPSHOT: the rows of the plane one after the other (spec 44_display R155). -/

namespace Sys2Proof.Machine

/-- Inside the plane nothing wraps. -/
theorem pixel_of_lt (fb : Plane) {x y : Nat} (hx : x < 64) (hy : y < 32) : pixel fb x y = fb[y][x] := by
  simp only [pixel, Nat.mod_eq_of_lt hx, Nat.mod_eq_of_lt hy]

theorem snapshot_eq_toList_flatten (s : State) : snapshot s = s.fb.flatten.toList := by
  calc snapshot s = ((s.fb.toArray.map Vector.toArray).toList.map Array.toList).flatten := by
        rw [Array.toList_map, List.map_map]; rfl
    _ = (s.fb.toArray.map Vector.toArray).flatten.toList := Array.toList_flatten.symm
    _ = s.fb.flatten.toList := rfl

theorem snapshot_length (s : State) : (snapshot s).length = 2048 := by
  rw [snapshot_eq_toList_flatten, Vector.length_toList]

/-- A position is a row and a column, by the width of a row. -/
theorem snapshot_getElem? (s : State) {k : Nat} (hk : k < 2048) :
    (snapshot s)[k]? = some (pixel s.fb (k % 64) (k / 64)) := by
  have hrow : k / 64 < 32 := Nat.div_lt_of_lt_mul hk
  have hcol : k % 64 < 64 := Nat.mod_lt k (by decide)
  rw [snapshot_eq_toList_flatten, Vector.getElem?_toList, Vector.getElem?_eq_getElem hk, Vector.getElem_flatten,
    pixel_of_lt s.fb hcol hrow]

/-- Settles O32: position `64 * y + x` is column `x` of row `y`. -/
theorem snapshotIsThePlaneRowByRow : Obligations.SnapshotIsThePlaneRowByRow := by
  unfold Obligations.SnapshotIsThePlaneRowByRow
  refine fun s => ⟨snapshot_length s, transact_snapshot s, fun x hx y hy => ?_⟩
  have hcol : (64 * y + x) % 64 = x := by omega
  have hrow : (64 * y + x) / 64 = y := by omega
  have hk : 64 * y + x < 2048 := by omega
  rw [snapshot_getElem? s hk, hcol, hrow]

end Sys2Proof.Machine
end

section
/-! CLS: the plane replaced by the clear one (spec 44_display R153, R156). -/

namespace Sys2Proof.Machine

theorem sameBut_setFb (s : State) (fb : Plane) : SameBut [.fb] s (setFb s fb) := fun c hc => by
  cases c with
  | fb => exact absurd (List.mem_singleton_self _) hc
  | regs | stack | mem | key => exact fun _ => rfl
  | i | pc | sp | dt | st | halted | draws => exact rfl

theorem exec_cls (s : State) : exec .cls s = .next (setFb s clearPlane) := rfl

/-- Settles O28: the next state is one replacement of the plane. -/
theorem clearTurnsEveryPixelOff : Obligations.ClearTurnsEveryPixelOff := by
  unfold Obligations.ClearTurnsEveryPixelOff
  exact fun s => ⟨_, exec_cls s, pixel_clearPlane, sameBut_setFb s clearPlane⟩

end Sys2Proof.Machine
end

section
/-! Plot and Pixel at wrapped coordinates (spec 44_display R151, R152). -/

namespace Sys2Proof.Machine

theorem pixel_plot (fb : Plane) (x y x' y' : Nat) (b : Bool) :
    pixel (plot fb x y b).1 x' y' =
      if x' % 64 = x % 64 ∧ y' % 32 = y % 32 then pixel fb x y ^^ b else pixel fb x' y' :=
  pixel_putPixel fb x y x' y' _

theorem plot_hit (fb : Plane) (x y : Nat) (b : Bool) : (plot fb x y b).2 = (pixel fb x y && b) := rfl

theorem pixel_congr_mod (fb : Plane) {x y x' y' : Nat} (hx : x' % dispW = x % dispW) (hy : y' % dispH = y % dispH) :
    pixel fb x' y' = pixel fb x y := by
  rw [← pixel_mod fb x' y', hx, hy, pixel_mod]

/-- Exclusive-or with 0 leaves the plotted pixel, so every pixel, as it was. -/
theorem plot_false (fb : Plane) (x y : Nat) : plot fb x y false = (fb, false) := by
  have same_plane : (plot fb x y false).1 = fb := plane_ext fun x' y' => by
    rw [pixel_plot, Bool.xor_false]
    split
    case isTrue h =>
      obtain ⟨hx, hy⟩ := h
      exact (pixel_congr_mod fb hx hy).symm
    case isFalse => rfl
  have no_hit : (plot fb x y false).2 = false := (plot_hit fb x y false).trans (Bool.and_false _)
  exact Prod.ext same_plane no_hit

/-- Settles O29: the wrapped write, its collision bit, the plot of 0, and `pixel` by its definition. -/
theorem plotXorsOneWrappedPixel : Obligations.PlotXorsOneWrappedPixel := by
  unfold Obligations.PlotXorsOneWrappedPixel
  exact fun fb x y b => ⟨fun x' y' => pixel_plot fb x y x' y' b, plot_hit fb x y b, plot_false fb x y, rfl⟩

end Sys2Proof.Machine
end

section
/-! SKP and SKNP, by the number in `Vx` (spec 45_keypad R162, R164, R165). -/

namespace Sys2Proof.Machine

/-- A number below 16 is a key's own (R162). -/
theorem keyAt_val (s : State) (k : Fin 16) : keyAt s k.val = s.key[k] := keyAt_of_lt s k.isLt

theorem exec_skp_eq (x : Reg) (s : State) :
    exec (.skp x) s = .next { s with pc := if keyAt s (getV s x).toNat = true then s.pc + 2 else s.pc } :=
  (SkipCondition.skp x).exec_eq

theorem exec_sknp_eq (x : Reg) (s : State) :
    exec (.sknp x) s = .next { s with pc := if keyAt s (getV s x).toNat = false then s.pc + 2 else s.pc } :=
  (SkipCondition.sknp x).exec_eq

/-- Settles O17: both skips test `keyAt` at the whole byte, which is the key's own bit below 16 and 0 from 16 on. -/
theorem keySkipsReadTheWholeByte : Obligations.KeySkipsReadTheWholeByte := by
  unfold Obligations.KeySkipsReadTheWholeByte
  intro x s
  rw [exec_skp_eq, exec_sknp_eq]
  refine ⟨fun k hk => ?_, fun hge => ?_⟩
  · rw [hk, keyAt_val]
    exact ⟨rfl, rfl⟩
  · rw [keyAt_of_ge s hge]
    exact ⟨rfl, rfl⟩

end Sys2Proof.Machine
end

section
/-! The timers: LD Vx, DT, LD DT, Vx and LD ST, Vx, and TICK (spec 46_timers R170 to R173). -/

namespace Sys2Proof.Machine

theorem sameBut_setDt (s : State) (b : Byte) : SameBut [.dt] s (setDt s b) := fun c hc => by
  cases c with
  | dt => exact absurd (List.mem_singleton_self _) hc
  | regs | stack | mem | key => exact fun _ => rfl
  | fb => exact fun _ _ => rfl
  | i | pc | sp | st | halted | draws => exact rfl

theorem sameBut_setSt (s : State) (b : Byte) : SameBut [.st] s (setSt s b) := fun c hc => by
  cases c with
  | st => exact absurd (List.mem_singleton_self _) hc
  | regs | stack | mem | key => exact fun _ => rfl
  | fb => exact fun _ _ => rfl
  | i | pc | sp | dt | halted | draws => exact rfl

theorem exec_ldVxDt (x : Reg) (s : State) : exec (.ldVxDt x) s = .next (setV s x s.dt) := rfl

theorem exec_ldDtVx (x : Reg) (s : State) : exec (.ldDtVx x) s = .next (setDt s (getV s x)) := rfl

theorem exec_ldStVx (x : Reg) (s : State) : exec (.ldStVx x) s = .next (setSt s (getV s x)) := rfl

/-- Settles O36: each of the three is one write, of a register or of a timer. -/
theorem timerTransfers : Obligations.TimerTransfers := by
  unfold Obligations.TimerTransfers
  intro x s
  refine ⟨?ldVxDt, ?ldDtVx, ?ldStVx⟩
  case ldVxDt =>
    exact ⟨_, exec_ldVxDt x s, getV_setV_same s x s.dt, sameRegsBut_setV s x s.dt, sameBut_setV s x s.dt⟩
  case ldDtVx => exact ⟨_, exec_ldDtVx x s, setDt_dt s _, sameBut_setDt s _⟩
  case ldStVx => exact ⟨_, exec_ldStVx x s, setSt_st s _, sameBut_setSt s _⟩

/-- Both timers written one after the other, with what the countdown gives for each. -/
theorem tick_eq_setSt_setDt (s : State) : tick s = setSt (setDt s (countDown s.dt)) (countDown s.st) := rfl

theorem sameBut_tick (s : State) : SameBut [.dt, .st] s (tick s) := by
  rw [tick_eq_setSt_setDt]
  exact (sameBut_setDt s _).trans (sameBut_setSt _ _)

theorem countDown_toNat_of_zero {t : Byte} (h : t.toNat = 0) : (countDown t).toNat = 0 := by
  rw [countDown_toNat, h]

/-- Settles O37: TICK is `countDown` of each timer, and no test of HALTED or of PC stands before it. -/
theorem tickCountsBothTimersDown : Obligations.TickCountsBothTimersDown := by
  unfold Obligations.TickCountsBothTimersDown
  intro s
  exact ⟨tick s, transact_tick s, fun _ => countDown_toNat s.dt, countDown_toNat_of_zero,
    fun _ => countDown_toNat s.st, countDown_toNat_of_zero, sameBut_tick s⟩

end Sys2Proof.Machine
end

section
/-! LD B, Vx: three bytes written, one digit each (spec 47_index_memory R182, R183). -/

namespace Sys2Proof.Machine

theorem sameBut_setMem (s : State) (m : Memory) : SameBut [.mem] s (setMem s m) := fun c hc => by
  cases c with
  | mem => exact absurd (List.mem_singleton_self _) hc
  | regs | stack | key => exact fun _ => rfl
  | fb => exact fun _ _ => rfl
  | i | pc | sp | dt | st | halted | draws => exact rfl

theorem effAddr_eq_base_add (s : State) (k : Nat) : effAddr s k = effAddr s 0 + k := rfl

/-- A run of byte writes from `I` puts byte `k` at the `k`-th effective address. -/
theorem memRead_memWriteBytes_effAddr {s : State} (h : s.mem.wf = true) {bs : List Byte} (hlen : bs.length ≤ memSize)
    {k : Nat} {d : Byte} (hd : bs[k]? = some d) :
    memRead (memWriteBytes s.mem (effAddr s 0) bs) (effAddr s k) = d := by
  obtain ⟨hk, rfl⟩ := List.getElem?_eq_some_iff.mp hd
  rw [effAddr_eq_base_add]
  exact memRead_memWriteBytes_inside h _ k bs hk hlen

/-- A number no greater than a byte's, as each of its digits is, is kept by a byte. -/
theorem toNat_ofNat_of_le_byte {b : Byte} {d : Nat} (hd : d ≤ b.toNat) : (BitVec.ofNat 8 d).toNat = d :=
  (BitVec.toNat_ofNat d 8).trans (Nat.mod_eq_of_lt (hd.trans_lt b.isLt))

/-- The `k`-th digit is read back at the `k`-th effective address. -/
theorem memRead_memWriteBytes_bcdDigits {s : State} (h : s.mem.wf = true) (b : Byte) (k : Nat) {d : Nat}
    (hd : (bcdDigits b)[k]? = some (BitVec.ofNat 8 d)) (hle : d ≤ b.toNat) :
    (memRead (memWriteBytes s.mem (effAddr s 0) (bcdDigits b)) (effAddr s k)).toNat = d := by
  have short : (bcdDigits b).length ≤ memSize := by rw [bcdDigits_length]; decide
  rw [memRead_memWriteBytes_effAddr h short hd, toNat_ofNat_of_le_byte hle]

theorem exec_ldB (x : Reg) (s : State) :
    exec (.ldB x) s = .next (setMem s (memWriteBytes s.mem (effAddr s 0) (bcdDigits (getV s x)))) := rfl

/-- Settles O41: each digit is read back at its own address, and a byte at any other address is not written. -/
theorem bcdStoresThreeDigits : Obligations.BcdStoresThreeDigits := by
  unfold Obligations.BcdStoresThreeDigits
  intro x s hmem
  have digit (k : Nat) {d : Nat} := memRead_memWriteBytes_bcdDigits hmem (getV s x) k (d := d)
  have hundreds := digit 0 rfl (Nat.div_le_self _ 100)
  have tens := digit 1 rfl ((Nat.mod_le _ 10).trans (Nat.div_le_self _ 10))
  have units := digit 2 rfl (Nat.mod_le _ 10)
  exact ⟨_, exec_ldB x s, hundreds, tens, units,
    fun a hout => memRead_memWriteBytes_outside hmem _ a _ hout, sameBut_setMem s _⟩

end Sys2Proof.Machine
end

section
/-! LD F, Vx: the index register set to a glyph's address (spec 47_index_memory R181). -/

namespace Sys2Proof.Machine

theorem sameBut_setI (s : State) (a : Addr) : SameBut [.i] s (setI s a) := fun c hc => by
  cases c with
  | i => exact absurd (List.mem_singleton_self _) hc
  | regs | stack | mem | key => exact fun _ => rfl
  | fb => exact fun _ _ => rfl
  | pc | sp | dt | st | halted | draws => exact rfl

/-- The mask 0x0F keeps the low nibble, and five times a nibble fits 12 bits. -/
theorem glyphAddr_toNat (b : Byte) : (glyphAddr b).toNat = b.toNat % 16 * 5 := by
  have low_nibble : (b &&& 0x0F).toNat = b.toNat % 16 :=
    (BitVec.toNat_and b 0x0F).trans (Nat.and_two_pow_sub_one_eq_mod b.toNat 4)
  have fits : b.toNat % 16 * 5 < 2 ^ 12 := by omega
  rw [glyphAddr, low_nibble]
  exact (BitVec.toNat_ofNat _ 12).trans (Nat.mod_eq_of_lt fits)

theorem exec_ldF (x : Reg) (s : State) : exec (.ldF x) s = .next (setI s (glyphAddr (getV s x))) := rfl

/-- Settles O40: the next state is one write of `I`, of a glyph's address; the last glyph is at 0x04B. -/
theorem fontAddressUsesTheLowNibble : Obligations.FontAddressUsesTheLowNibble := by
  unfold Obligations.FontAddressUsesTheLowNibble
  intro x s
  have haddr := glyphAddr_toNat (getV s x)
  have hbound : (glyphAddr (getV s x)).toNat ≤ 0x04B := by omega
  exact ⟨_, exec_ldF x s, haddr, hbound, sameBut_setI s _⟩

end Sys2Proof.Machine
end

section
/-! Decode of encode and encode of decode (spec 30_encoding R76, R77, R80, R83). -/

namespace Sys2Proof

/-! ### Decode of encode: each format puts its operands where the decoder reads them -/

theorem decodeGroup0_encNNN {nnn : Addr} (h : sysOperandOk nnn = true) :
    decodeGroup0 (encNNN 0x0 nnn) = .sys nnn := by
  simp only [sysOperandOk, Bool.and_eq_true, bne_iff_ne] at h
  obtain ⟨⟨hnop, hcls⟩, hret⟩ := h
  have other (v : Word) (hne : nnn ≠ opNnn v) : encNNN 0x0 nnn ≠ v := fun heq =>
    hne ((opNnn_encNNN 0x0 nnn).symm.trans (congrArg opNnn heq))
  rw [decodeGroup0, if_neg (other 0x00E0 hcls), if_neg (other 0x00EE hret), if_neg (other 0x0000 hnop), opNnn_encNNN]

theorem decodeWordWith_encode {annn : AnnnMeaning} {i : Instr} (h : i.wfWith annn = true) :
    decodeWordWith annn (encode i) = .ok i := by
  cases i with
  | cls | ret | nop => rfl
  | sys nnn =>
    rw [encode, decodeWordWith, opGroup_encNNN]
    exact congrArg Except.ok (decodeGroup0_encNNN h)
  | jp | call | jpV0 =>
    rw [encode, decodeWordWith, opGroup_encNNN, opNnn_encNNN]
    rfl
  | ldI nnn =>
    rw [encode, decodeWordWith, opGroup_encNNN, opNnn_encNNN]
    exact if_pos (beq_iff_eq.mp h)
  | seImm | sneImm | ldImm | addImm | rnd =>
    rw [encode, decodeWordWith, opGroup_encXKK, opX_encXKK, opKk_encXKK]
    rfl
  | drw | seReg | sneReg =>
    rw [encode, decodeWordWith, opGroup_encXYN, opX_encXYN, opY_encXYN, opN_encXYN]
    rfl
  | ldReg | orReg | andReg | xorReg | addReg | subReg | shr | subnReg | shl =>
    rw [encode, decodeWordWith, opGroup_encXYN, decodeGroup8, opX_encXYN, opY_encXYN, opN_encXYN]
    rfl
  | skp | sknp =>
    rw [encode, decodeWordWith, opGroup_encXKK, decodeGroupE, opX_encXKK, opKk_encXKK]
    rfl
  | ldVxDt | ldVxK | ldDtVx | ldStVx | addI | ldF | ldB | storeRegs | loadRegs =>
    rw [encode, decodeWordWith, opGroup_encXKK, decodeGroupF, opX_encXKK, opKk_encXKK]
    rfl

/-- A word is its high byte and its low byte. -/
theorem wordBytes_append (op : Word) : op.extractLsb' 8 8 ++ op.extractLsb' 0 8 = op :=
  (BitVec.extractLsb'_append_extractLsb'_eq_extractLsb' rfl).trans BitVec.extractLsb'_eq_self

theorem decode_wordBytes {op : Word} {i : Instr} (h : decodeWord op = .ok i) (rest : List Byte) :
    decode (op.extractLsb' 8 8 :: op.extractLsb' 0 8 :: rest) = .ok (i, rest) := by
  rw [decode, wordBytes_append, h]

/-- Settles O3: the word by its format, and the two bytes of a word are the word. -/
theorem decodingAnEncodedInstructionGivesItBack : Obligations.DecodingAnEncodedInstructionGivesItBack := by
  unfold Obligations.DecodingAnEncodedInstructionGivesItBack
  exact ⟨fun _ _ hwf => decodeWordWith_encode hwf, fun _ rest hwf => decode_wordBytes (decodeWordWith_encode hwf) rest⟩

/-! ### Encode of decode: the fields the decoder reads are the whole word -/

/-- A 4-bit field goes through its register number unchanged. -/
theorem regField_ofNat (b : Nibble) : regField (Fin.ofNat 16 b.toNat) = b := by
  revert b
  decide

section

variable {annn : AnnnMeaning} {op : Word} {g : Nibble} {i : Instr}

theorem encNNN_fields (hg : opGroup op = g) : encNNN g (opNnn op) = op := by
  rw [← hg]
  exact formatNNN_fields op

theorem encXKK_fields {kk : Byte} (hg : opGroup op = g) (hkk : opKk op = kk) : encXKK g (opX op) kk = op := by
  rw [encXKK, opX, regField_ofNat, ← hg, ← hkk]
  exact formatXKK_fields op

theorem encXYN_fields {n : Nibble} (hg : opGroup op = g) (hn : opN op = n) :
    encXYN g (opX op) (opY op) n = op := by
  rw [encXYN, opX, opY, regField_ofNat, regField_ofNat, ← hg, ← hn]
  exact formatXYN_fields op

theorem eq_ofNat_of_toNat_eq {b : Nibble} {k : Nat} (h : b.toNat = k) : b = BitVec.ofNat 4 k := by
  rw [← h, BitVec.ofNat_toNat, BitVec.setWidth_eq]

theorem encode_decodeGroup0 (hg : opGroup op = 0x0) :
    (decodeGroup0 op).wfWith annn = true ∧ encode (decodeGroup0 op) = op := by
  have hop := encNNN_fields hg
  unfold decodeGroup0
  split
  case isTrue hcls => exact ⟨rfl, hcls.symm⟩
  case isFalse hcls =>
    split
    case isTrue hret => exact ⟨rfl, hret.symm⟩
    case isFalse hret =>
      split
      case isTrue hnop => exact ⟨rfl, hnop.symm⟩
      case isFalse hnop =>
        have other {v : Addr} (hne : op ≠ encNNN 0x0 v) : opNnn op ≠ v := fun heq => hne (heq ▸ hop.symm)
        refine ⟨?_, hop⟩
        simp only [Instr.wfWith, sysOperandOk, Bool.and_eq_true, bne_iff_ne]
        exact ⟨⟨other hnop, other hcls⟩, other hret⟩

theorem encode_of_decodeGroup8 (hg : opGroup op = 0x8) (h : decodeGroup8 op = .ok i) :
    i.wfWith annn = true ∧ encode i = op := by
  unfold decodeGroup8 at h
  split at h
  case h_10 => cases h
  all_goals
    rename_i hn
    cases h
    exact ⟨rfl, encXYN_fields hg (eq_ofNat_of_toNat_eq hn)⟩

theorem encode_of_decodeGroupE (hg : opGroup op = 0xE) (h : decodeGroupE op = .ok i) :
    i.wfWith annn = true ∧ encode i = op := by
  unfold decodeGroupE at h
  split_ifs at h with hskp hsknp <;> cases h
  · exact ⟨rfl, encXKK_fields hg hskp⟩
  · exact ⟨rfl, encXKK_fields hg hsknp⟩

theorem encode_of_decodeGroupF (hg : opGroup op = 0xF) (h : decodeGroupF op = .ok i) :
    i.wfWith annn = true ∧ encode i = op := by
  unfold decodeGroupF at h
  split_ifs at h <;> cases h <;> exact ⟨rfl, encXKK_fields hg ‹_›⟩

/-- One test guards the instruction: the low nibble in groups 5 and 9, the reading of `Annn` in group A. -/
theorem ok_of_ite_ok {c : Prop} [Decidable c] {j : Instr} {e : DecodeError}
    (h : (if c then .ok j else .error e : Except DecodeError Instr) = .ok i) : c ∧ j = i := by
  split_ifs at h with hc
  exact ⟨hc, Except.ok.inj h⟩

theorem encode_of_decodeWordWith (h : decodeWordWith annn op = .ok i) : i.wfWith annn = true ∧ encode i = op := by
  unfold decodeWordWith at h
  split at h
  case h_1 hg =>
    cases h
    exact encode_decodeGroup0 (eq_ofNat_of_toNat_eq hg)
  case h_2 hg | h_3 hg | h_12 hg =>
    cases h
    exact ⟨rfl, encNNN_fields (eq_ofNat_of_toNat_eq hg)⟩
  case h_4 hg | h_5 hg | h_7 hg | h_8 hg | h_13 hg =>
    cases h
    exact ⟨rfl, encXKK_fields (eq_ofNat_of_toNat_eq hg) rfl⟩
  case h_6 hg | h_10 hg =>
    obtain ⟨hn, rfl⟩ := ok_of_ite_ok h
    exact ⟨rfl, encXYN_fields (eq_ofNat_of_toNat_eq hg) hn⟩
  case h_9 hg => exact encode_of_decodeGroup8 (eq_ofNat_of_toNat_eq hg) h
  case h_11 hg =>
    obtain ⟨hannn, rfl⟩ := ok_of_ite_ok h
    exact ⟨beq_iff_eq.mpr hannn, encNNN_fields (eq_ofNat_of_toNat_eq hg)⟩
  case h_14 hg =>
    cases h
    exact ⟨rfl, encXYN_fields (eq_ofNat_of_toNat_eq hg) rfl⟩
  case h_15 hg => exact encode_of_decodeGroupE (eq_ofNat_of_toNat_eq hg) h
  case h_16 hg => exact encode_of_decodeGroupF (eq_ofNat_of_toNat_eq hg) h
  case h_17 => cases h

end

/-- Settles O4: group by group, the fields of the instruction's format put the word together again. -/
theorem encodingADecodedWordGivesItBack : Obligations.EncodingADecodedWordGivesItBack := by
  unfold Obligations.EncodingADecodedWordGivesItBack
  exact fun _ _ _ => encode_of_decodeWordWith

end Sys2Proof
end

section
/-! The illegal words, by arithmetic on the word (spec 30_encoding R80, R81, R84). -/

namespace Sys2Proof

theorem opGroup_toNat (op : Word) : (opGroup op).toNat = op.toNat / 4096 := by
  have hlt : op.toNat < 2 ^ 16 := op.isLt
  rw [opGroup, BitVec.extractLsb'_toNat, Nat.shiftRight_eq_div_pow]
  omega

theorem opN_toNat (op : Word) : (opN op).toNat = op.toNat % 16 := by
  rw [opN, BitVec.extractLsb'_toNat, Nat.shiftRight_zero]

theorem opKk_toNat (op : Word) : (opKk op).toNat = op.toNat % 256 := by
  rw [opKk, BitVec.extractLsb'_toNat, Nat.shiftRight_zero]

/-- The decoder's answer for a word is a refusal by name where the condition holds and an instruction elsewhere. -/
def RefusesExactly (illegal : Prop) (op : Word) (answer : Except DecodeError Instr) : Prop :=
  (illegal → answer = .error (.illegalWord op)) ∧ (¬ illegal → ∃ i : Instr, answer = .ok i)

section

variable {illegal illegal' : Prop} {op : Word} {answer : Except DecodeError Instr}

theorem RefusesExactly.congr (h : RefusesExactly illegal op answer) (hiff : illegal' ↔ illegal) :
    RefusesExactly illegal' op answer := by
  rwa [RefusesExactly, hiff]

theorem refusesExactly_ok {i : Instr} (h : ¬ illegal) : RefusesExactly illegal op (.ok i) :=
  ⟨fun hill => absurd hill h, fun _ => ⟨i, rfl⟩⟩

theorem refusesExactly_error (h : illegal) : RefusesExactly illegal op (.error (.illegalWord op)) :=
  ⟨fun _ => rfl, fun hlegal => absurd h hlegal⟩

/-- A test on a fixed field: the word is legal where it holds. -/
theorem RefusesExactly.ite {c : Prop} [Decidable c] (i : Instr) (h : RefusesExactly illegal op answer) :
    RefusesExactly (¬ c ∧ illegal) op (if c then .ok i else answer) := by
  split
  case isTrue hc => exact refusesExactly_ok fun hill => hill.1 hc
  case isFalse hc => exact h.congr (and_iff_right hc)

end

theorem decodeGroup8_refusesExactly (op : Word) :
    RefusesExactly (8 ≤ (opN op).toNat ∧ (opN op).toNat ≤ 13 ∨ (opN op).toNat = 15) op (decodeGroup8 op) := by
  have hlt : (opN op).toNat < 16 := (opN op).isLt
  unfold decodeGroup8
  split
  case h_10 => exact refusesExactly_error (by simp only [imp_false] at *; omega)
  all_goals
    rename_i hn
    exact refusesExactly_ok (by omega)

theorem decodeGroupE_refusesExactly (op : Word) :
    RefusesExactly (opKk op ≠ 0x9E ∧ opKk op ≠ 0xA1) op (decodeGroupE op) :=
  (RefusesExactly.ite _ (RefusesExactly.ite _ (refusesExactly_error trivial))).congr (by rw [and_true])

/-- The low bytes that name an instruction of group F (R84). -/
def groupFSubcodes : List Byte := [0x07, 0x0A, 0x15, 0x18, 0x1E, 0x29, 0x33, 0x55, 0x65]

theorem decodeGroupF_refusesExactly (op : Word) :
    RefusesExactly (opKk op ∉ groupFSubcodes) op (decodeGroupF op) := by
  unfold decodeGroupF
  refine RefusesExactly.congr (.ite _ (.ite _ (.ite _ (.ite _ (.ite _ (.ite _ (.ite _ (.ite _ (.ite _
    (refusesExactly_error trivial)))))))))) ?_
  simp only [groupFSubcodes, List.mem_cons, List.not_mem_nil, or_false, not_or, and_true]

/-- The table of R84, by the word's fields. -/
def IllegalEncoding (op : Word) : Prop :=
  ((opGroup op).toNat = 5 ∧ opN op ≠ 0) ∨
  ((opGroup op).toNat = 8 ∧ (8 ≤ (opN op).toNat ∧ (opN op).toNat ≤ 13 ∨ (opN op).toNat = 15)) ∨
  ((opGroup op).toNat = 9 ∧ opN op ≠ 0) ∨
  ((opGroup op).toNat = 14 ∧ opKk op ≠ 0x9E ∧ opKk op ≠ 0xA1) ∨
  ((opGroup op).toNat = 15 ∧ opKk op ∉ groupFSubcodes)

theorem decodeWord_refusesExactly (op : Word) : RefusesExactly (IllegalEncoding op) op (decodeWord op) := by
  have hlt : (opGroup op).toNat < 16 := (opGroup op).isLt
  unfold decodeWord decodeWordWith IllegalEncoding
  split
  case h_6 hg | h_10 hg =>
    exact (RefusesExactly.ite _ (refusesExactly_error trivial)).congr (by simp [hg])
  case h_9 hg => exact (decodeGroup8_refusesExactly op).congr (by simp [hg])
  case h_11 hg => exact refusesExactly_ok (by simp [hg])
  case h_15 hg => exact (decodeGroupE_refusesExactly op).congr (by simp [hg])
  case h_16 hg => exact (decodeGroupF_refusesExactly op).congr (by simp [hg])
  case h_17 =>
    simp only [imp_false] at *
    omega
  all_goals
    rename_i hg
    exact refusesExactly_ok (by simp [hg])

/-- Settles O6: the decoder's refusals group by group, and each field as a quotient or a remainder of the word. -/
theorem illegalWordsAreExactlyTheListed : Obligations.IllegalWordsAreExactlyTheListed := by
  unfold Obligations.IllegalWordsAreExactlyTheListed
  intro op
  refine (decodeWord_refusesExactly op).congr ?_
  simp only [IllegalEncoding, groupFSubcodes, opGroup_toNat, ← BitVec.toNat_inj, ne_eq, opN_toNat, opKk_toNat,
    List.mem_cons, List.not_mem_nil, or_false]
  rfl

end Sys2Proof
end

section
/-! What every instruction may change: components, registers, the flag (spec 10_state R21, R23, R34; 20_memory R51;
44_display R159; 60_exceptions R200, R205). -/

namespace Sys2Proof.Machine

/-! ### The updates an instruction is made of -/

theorem SameBut.refl (changed : List Component) (s : State) : SameBut changed s s := fun c _ => by
  cases c with
  | regs | stack | mem | key => exact fun _ => rfl
  | fb => exact fun _ _ => rfl
  | i | pc | sp | dt | st | halted | draws => exact rfl

theorem sameBut_popReturn (s : State) : SameBut [.pc, .sp] s (popReturn s) := fun c hc => by
  cases c with
  | pc | sp => exact absurd (by decide) hc
  | regs | stack | mem | key => exact fun _ => rfl
  | fb => exact fun _ _ => rfl
  | i | dt | st | halted | draws => exact rfl

theorem sameBut_setRegs (s : State) (v : Vector Byte 16) : SameBut [.regs] s (setRegs s v) := fun c hc => by
  cases c with
  | regs => exact absurd (List.mem_singleton_self _) hc
  | stack | mem | key => exact fun _ => rfl
  | fb => exact fun _ _ => rfl
  | i | pc | sp | dt | st | halted | draws => exact rfl

theorem sameBut_nextDraw (s : State) : SameBut [.draws] s (nextDraw s) := fun c hc => by
  cases c with
  | draws => exact absurd (List.mem_singleton_self _) hc
  | regs | stack | mem | key => exact fun _ => rfl
  | fb => exact fun _ _ => rfl
  | i | pc | sp | dt | st | halted => exact rfl

theorem sameBut_skipIf (c : Bool) (s : State) : SameBut [.pc] s (skipIf c s) := by
  cases c with
  | true => exact sameBut_setPc s _
  | false => exact .refl _ s

theorem sameBut_setFlag (s : State) (c : Bool) : SameBut [.regs] s (setFlag s c) := sameBut_setV s regVF _

theorem sameBut_setResultAndFlag (s : State) (x : Reg) (b : Byte) (c : Bool) :
    SameBut [.regs] s (setResultAndFlag s x b c) :=
  ((sameBut_setV s x b).trans (sameBut_setFlag _ c)).mono (by decide)

theorem getV_setResultAndFlag_ne (s : State) {x r : Reg} (b : Byte) (c : Bool) (hf : r ≠ 15) (hx : r ≠ x) :
    getV (setResultAndFlag s x b c) r = getV s r := by
  rw [getV_setResultAndFlag, if_neg hf, if_neg hx]

/-! ### The instructions that are more than one update -/

theorem exec_drw (x y : Reg) (n : Nibble) (s : State) :
    exec (.drw x y n) s = .next (setFlag (setFb s (drawSprite x y n s).1) (drawSprite x y n s).2) := rfl

theorem sameBut_drw (x y : Reg) (n : Nibble) (s : State) :
    SameBut [.regs, .fb] s (setFlag (setFb s (drawSprite x y n s).1) (drawSprite x y n s).2) :=
  ((sameBut_setFb s _).trans (sameBut_setFlag _ _)).mono (by decide)

theorem exec_rnd (x : Reg) (kk : Byte) (s : State) :
    exec (.rnd x kk) s = .next (randomAnd (Config.rnd s.draws) x kk (nextDraw s)) := rfl

theorem sameBut_randomAnd (draw : Byte) (x : Reg) (kk : Byte) (s : State) :
    SameBut [.regs] s (randomAnd draw x kk s) := sameBut_setV s x _

theorem sameBut_rnd (x : Reg) (kk : Byte) (s : State) :
    SameBut [.regs, .draws] s (randomAnd (Config.rnd s.draws) x kk (nextDraw s)) :=
  ((sameBut_nextDraw s).trans (sameBut_randomAnd _ x kk _)).mono (by decide)

theorem exec_addI (x : Reg) (s : State) :
    exec (.addI x) s = .next (setFlag (setI s (indexSum s x)) (indexCarryFlag s.i (getV s x))) := rfl

theorem sameBut_addI (x : Reg) (s : State) :
    SameBut [.regs, .i] s (setFlag (setI s (indexSum s x)) (indexCarryFlag s.i (getV s x))) :=
  ((sameBut_setI s _).trans (sameBut_setFlag _ _)).mono (by decide)

theorem exec_ldVxK_of_some {s : State} {k : Nat} (h : firstKey s = some k) (x : Reg) :
    exec (.ldVxK x) s = .next (setV s x (BitVec.ofNat 8 k)) := by
  rw [exec, execLdVxK, h]

theorem exec_ldVxK_of_none {s : State} (h : firstKey s = none) (x : Reg) :
    exec (.ldVxK x) s = .next (rewindPc s) := by
  rw [exec, execLdVxK, h]

/-- The key-wait writes the key it found or rewinds PC, and always answers. -/
theorem exec_ldVxK_cases (x : Reg) (s : State) :
    (∃ b : Byte, exec (.ldVxK x) s = .next (setV s x b)) ∨ exec (.ldVxK x) s = .next (rewindPc s) := by
  cases h : firstKey s with
  | some k => exact .inl ⟨_, exec_ldVxK_of_some h x⟩
  | none => exact .inr (exec_ldVxK_of_none h x)

/-! ### Every instruction -/

/-- An answer that is known is the answer. -/
theorem eq_of_next {i : Instr} {s t u : State} (h : exec i s = .next t) (hu : exec i s = .next u) : t = u :=
  Host.Outcome.next.inj (h.symm.trans hu)

theorem exec_sameBut_mayWrite {i : Instr} {s t : State} (h : exec i s = .next t) : SameBut i.mayWrite s t := by
  cases i with
  | nop | sys => cases h; exact .refl _ s
  | cls => cases h; exact sameBut_setFb s _
  | ret => cases h; exact sameBut_popReturn s
  | jp | jpV0 => cases h; exact sameBut_setPc s _
  | call => cases h; exact sameBut_call _ s
  | seImm | sneImm | seReg | sneReg | skp | sknp => cases h; exact sameBut_skipIf _ s
  | ldImm | addImm | ldReg | orReg | andReg | xorReg | ldVxDt => cases h; exact sameBut_setV s _ _
  | addReg | subReg | shr | subnReg | shl => cases h; exact sameBut_setResultAndFlag s _ _ _
  | ldI | ldF => cases h; exact sameBut_setI s _
  | rnd => cases h; exact sameBut_rnd _ _ s
  | drw => cases h; exact sameBut_drw _ _ _ s
  | loadRegs => cases h; exact sameBut_setRegs s _
  | ldDtVx => cases h; exact sameBut_setDt s _
  | ldStVx => cases h; exact sameBut_setSt s _
  | addI => cases h; exact sameBut_addI _ s
  | ldB | storeRegs => cases h; exact sameBut_setMem s _
  | ldVxK x =>
    obtain ⟨b, hkey⟩ | hnone := exec_ldVxK_cases x s
    · rw [eq_of_next h hkey]
      exact (sameBut_setV s x b).mono (changed' := [.regs, .pc]) (by decide)
    · rw [eq_of_next h hnone]
      exact (sameBut_setPc s _).mono (changed' := [.regs, .pc]) (by decide)

/-- Settles O45: one update, or two, per instruction, each with its own frame. -/
theorem instructionsWriteOnlyTheirComponents : Obligations.InstructionsWriteOnlyTheirComponents := by
  unfold Obligations.InstructionsWriteOnlyTheirComponents
  exact fun _ _ _ => exec_sameBut_mayWrite

/-- An instruction that does not write the register file keeps every register. -/
theorem exec_getV_of_no_regs {i : Instr} {s t : State} (h : exec i s = .next t) (hi : .regs ∉ i.mayWrite)
    (r : Reg) : getV t r = getV s r :=
  exec_sameBut_mayWrite h .regs hi r

theorem exec_getV_of_not_names {i : Instr} {s t : State} {r : Reg} (h : exec i s = .next t) (hr : ¬ i.names r)
    (hf : i.writesFlag = true → r ≠ 15) : getV t r = getV s r := by
  cases i with
  | ldImm | addImm | ldReg | orReg | andReg | xorReg | ldVxDt | rnd => cases h; exact getV_setV_ne _ _ hr
  | addReg | subReg | shr | subnReg | shl => cases h; exact getV_setResultAndFlag_ne _ _ _ (hf rfl) hr
  | drw | addI => cases h; exact getV_setV_ne _ _ (hf rfl)
  | loadRegs x =>
    cases h
    have above : ¬ r.val < x.val + 1 := fun hlt => hr (Nat.le_of_lt_succ hlt)
    exact (getV_loadRegs s s.mem (effAddr s 0) (x.val + 1) r config).trans (if_neg above)
  | ldVxK x =>
    obtain ⟨b, hkey⟩ | hnone := exec_ldVxK_cases x s
    · rw [eq_of_next h hkey, getV_setV_ne s b hr]
    · rw [eq_of_next h hnone, getV_rewindPc]
  | cls | ret | nop | sys | jp | call | jpV0 | seImm | sneImm | seReg | sneReg | skp | sknp | ldI | ldDtVx | ldStVx
  | ldF | ldB | storeRegs => exact exec_getV_of_no_regs h (by simp [Instr.mayWrite]) r

/-- Settles O46: every register write is at `Vx`, at VF by a flag writer, or at or below `Vx` by the load. -/
theorem instructionsWriteOnlyTheirRegisters : Obligations.InstructionsWriteOnlyTheirRegisters := by
  unfold Obligations.InstructionsWriteOnlyTheirRegisters
  exact fun _ _ _ _ => exec_getV_of_not_names

/-- The flag is the last thing a flag writer writes (R24). -/
theorem exec_eq_setFlag_of_writesFlag {i : Instr} {s t : State} (h : exec i s = .next t) (hw : i.writesFlag = true) :
    ∃ (u : State) (c : Bool), t = setFlag u c := by
  cases i with
  | addReg | subReg | shr | subnReg | shl | drw | addI => cases h; exact ⟨_, _, rfl⟩
  | _ => cases hw

/-- Settles O47: VF is written last, with a flag. -/
theorem flagWritersLeaveZeroOrOne : Obligations.FlagWritersLeaveZeroOrOne := by
  unfold Obligations.FlagWritersLeaveZeroOrOne
  intro i s t h hw
  obtain ⟨u, c, rfl⟩ := exec_eq_setFlag_of_writesFlag h hw
  rw [getV_setFlag, if_pos rfl]
  exact flagByte_cases c

theorem exec_answers (i : Instr) (s : State) : ∃ t : State, exec i s = .next t := by
  cases i with
  | ldVxK x =>
    obtain ⟨b, hkey⟩ | hnone := exec_ldVxK_cases x s
    · exact ⟨_, hkey⟩
    · exact ⟨_, hnone⟩
  | _ => exact ⟨_, rfl⟩

theorem step_answers (s : State) : ∃ t : State, step s = .next t := by
  rw [step_eq]
  split
  case isTrue => exact ⟨s, rfl⟩
  case isFalse =>
    split
    case isTrue => exact ⟨s, rfl⟩
    case isFalse =>
      split
      case h_1 i _ => exact exec_answers i (advancePc s)
      case h_2 => exact ⟨_, rfl⟩

/-- Settles O48: the key-wait's two answers are both next states, and so is each of the four ends of a step. -/
theorem everyStepAnswersANextState : Obligations.EveryStepAnswersANextState := by
  unfold Obligations.EveryStepAnswersANextState
  exact ⟨exec_answers, step_answers⟩

end Sys2Proof.Machine
end

section
/-! SETKEY and LOAD: the answer, and the refusal (spec 45_keypad R161; 70_reset_and_hazards R233, R234). -/

namespace Sys2Proof.Machine

theorem setKey_of_lt {k : Nat} (h : k < 16) (p : Bool) (s : State) :
    setKey k p s = .next { s with key := s.key.set k p } := dif_pos h

theorem setKey_of_ge {k : Nat} (h : 16 ≤ k) (p : Bool) (s : State) :
    setKey k p s = .refused .keyIndexOutOfRange := dif_neg (Nat.not_lt.mpr h)

theorem load_of_le {bytes : List Byte} (h : bytes.length ≤ loadMax) (s : State) :
    load bytes s = .next (setMem (cpuReset (memoryReset s)) (memWriteBytes [] programOrigin bytes)) := if_pos h

theorem load_of_gt {bytes : List Byte} (h : loadMax < bytes.length) (s : State) :
    load bytes s = .refused .loadTooLong := if_neg (Nat.not_le.mpr h)

/-- A SETKEY that answers had an index below 16. -/
theorem setKey_eq_next {k : Nat} {p : Bool} {s t : State} (h : setKey k p s = .next t) :
    ∃ hk : k < 16, t = { s with key := s.key.set k p } := by
  obtain hk | hk := Nat.lt_or_ge k 16
  · exact ⟨hk, (Host.Outcome.next.inj ((setKey_of_lt hk p s).symm.trans h)).symm⟩
  · rw [setKey_of_ge hk] at h
    cases h

/-- A LOAD that answers had at most 3584 bytes. -/
theorem load_eq_next {bytes : List Byte} {s t : State} (h : load bytes s = .next t) :
    t = setMem (cpuReset (memoryReset s)) (memWriteBytes [] programOrigin bytes) := by
  obtain hlen | hlen := Nat.lt_or_ge loadMax bytes.length
  · rw [load_of_gt hlen] at h
    cases h
  · exact (Host.Outcome.next.inj ((load_of_le hlen s).symm.trans h)).symm

end Sys2Proof.Machine
end

section
/-! The step, the halt and the sound timer (spec 40_step_cycle_and_flow R100; 60_exceptions R201 to R203; 10_state R32,
R33). -/

namespace Sys2Proof.Machine

/-! ### The step -/

theorem step_of_halted {s : State} (h : s.halted = true) : step s = .next s := by
  rw [step_eq, if_pos h]

theorem step_of_stalled {s : State} (h : 0x1000 ≤ s.pc.toNat) : step s = .next s := by
  rw [step_eq, if_pos ((stalled_iff s).mpr h), ite_self]

theorem step_of_decodeWord_error {s : State} {e : DecodeError} (h : s.Running)
    (hdec : decodeWord (memReadWord s.mem s.pc.toNat) = .error e) : step s = .next (raiseHalt (advancePc s)) := by
  obtain ⟨running, inRange⟩ := h
  rw [step_eq, running, inRange, fetchWord, hdec]
  rfl

theorem running_of_pc_lt {s : State} (hh : s.halted = false) (hpc : s.pc.toNat < 0x1000) : s.Running :=
  ⟨hh, (stalled_eq_false s).mpr hpc⟩

/-- Settles O1: the four ends of the step cycle. -/
theorem stepRunsTheDecodedInstruction : Obligations.StepRunsTheDecodedInstruction := by
  unfold Obligations.StepRunsTheDecodedInstruction
  intro s
  refine ⟨step_of_halted, fun _ hpc => step_of_stalled hpc, fun hh hpc => ⟨fun i hdec => ?_, fun e hdec => ?_⟩⟩
  · exact step_of_decodeWord_ok (running_of_pc_lt hh hpc) hdec
  · exact step_of_decodeWord_error (running_of_pc_lt hh hpc) hdec

/-- Settles O2: seventeen closed evaluations of the decoder. -/
theorem wordsDecodeAsThePatternsSay : Obligations.WordsDecodeAsThePatternsSay := by
  unfold Obligations.WordsDecodeAsThePatternsSay
  decide

/-! ### HALTED -/

theorem exec_halted {i : Instr} {s t : State} (h : exec i s = .next t) : t.halted = s.halted :=
  exec_sameBut_mayWrite h .halted (by cases i <;> simp [Instr.mayWrite])

/-- The decoder refuses a word by the word's own name. -/
theorem eq_illegalWord_of_decodeWord_error {op : Word} {e : DecodeError} (h : decodeWord op = .error e) :
    e = .illegalWord op := by
  rw [decodeWord, ← decodeByTable_eq_decodeWordWith, decodeByTable] at h
  split at h
  · cases h
  · exact (Except.error.inj h).symm

/-- Settles O50: of the four ends of a step only the illegal word's sets HALTED. -/
theorem onlyAnIllegalWordHalts : Obligations.OnlyAnIllegalWordHalts := by
  unfold Obligations.OnlyAnIllegalWordHalts
  intro s t h hrun hhalt
  obtain ⟨hh, -⟩ | ⟨-, -, rfl⟩ | ⟨-, -, i, -, hexec⟩ | ⟨-, hs, e, hdec, rfl⟩ := step_cases h
  · exact absurd (hh.symm.trans hrun) (by decide)
  · exact absurd (hhalt.symm.trans hrun) (by decide)
  · have hkept : t.halted = false := (exec_halted hexec).trans hrun
    exact absurd (hhalt.symm.trans hkept) (by decide)
  · obtain rfl := eq_illegalWord_of_decodeWord_error hdec
    exact ⟨(stalled_eq_false s).mp hs, hdec, rfl⟩

theorem transact_unhalts {x : Transaction} {s t : State} (h : transact x s = .next t) (hs : s.halted = true)
    (ht : t.halted = false) : x = .reset ∨ ∃ bytes : List Byte, x = .load bytes := by
  have changed : t.halted ≠ s.halted := by rw [hs, ht]; decide
  cases x with
  | reset => exact .inl rfl
  | load bytes => exact .inr ⟨bytes, rfl⟩
  | step =>
    rw [← Host.Outcome.next.inj ((step_of_halted hs).symm.trans h)] at changed
    exact absurd rfl changed
  | tick | snapshot => cases h; exact absurd rfl changed
  | setKey k p =>
    obtain ⟨_, rfl⟩ := setKey_eq_next h
    exact absurd rfl changed

/-- Settles O49: TICK, SETKEY and SNAPSHOT do not look at HALTED, RESET and LOAD write 0 there, and HALTED is in no
instruction's list of components. -/
theorem haltedUntilResetOrLoad : Obligations.HaltedUntilResetOrLoad := by
  unfold Obligations.HaltedUntilResetOrLoad
  refine ⟨fun s => step_of_halted, fun s k p b => ⟨rfl, setKey_of_lt k.isLt p _, rfl⟩,
    fun x s t => transact_unhalts, fun s => ⟨_, transact_reset s, rfl⟩, fun s bytes hlen => ?_,
    fun i s t => exec_halted⟩
  exact ⟨_, load_of_le hlen s, rfl⟩

/-! ### ST is read by no instruction -/

theorem exec_setSt {i : Instr} {s t : State} (b : Byte) (h : exec i s = .next t) :
    ∃ t' : State, exec i (setSt s b) = .next t' ∧ setSt t' t.st = t := by
  cases i with
  | seImm | sneImm | seReg | sneReg | skp | sknp =>
    cases h
    refine ⟨_, rfl, ?_⟩
    simp only [skipIf_eq]
    rfl
  | ldVxK x =>
    have same_key : firstKey (setSt s b) = firstKey s := firstKey_congr (setSt_key s b)
    cases hk : firstKey s with
    | some k =>
      rw [eq_of_next h (exec_ldVxK_of_some hk x)]
      exact ⟨_, exec_ldVxK_of_some (same_key.trans hk) x, rfl⟩
    | none =>
      rw [eq_of_next h (exec_ldVxK_of_none hk x)]
      exact ⟨_, exec_ldVxK_of_none (same_key.trans hk) x, rfl⟩
  | _ => cases h; exact ⟨_, rfl, rfl⟩

/-- Settles O52: the same instruction from the state with another ST, case by case. -/
theorem soundTimerIsReadByNoInstruction : Obligations.SoundTimerIsReadByNoInstruction := by
  unfold Obligations.SoundTimerIsReadByNoInstruction
  exact fun _ _ _ b h => exec_setSt b h

end Sys2Proof.Machine
end

section
/-! The invariant: memory canonical, slots at most 0x1001, PC at most 0x10FE (spec 10_state R28, R40); over an
instruction, a step and a session. -/

namespace Sys2Proof.Machine

/-! ### Over one instruction -/

/-- The two instructions that store keep the canonical form; no other touches the list of bytes. -/
theorem exec_mem_wf {i : Instr} {s t : State} (h : exec i s = .next t) (hm : s.mem.wf = true) :
    t.mem.wf = true := by
  cases i with
  | ldB | storeRegs => cases h; exact memWriteBytes_wf hm _ _
  | seImm | sneImm | seReg | sneReg | skp | sknp =>
    cases h
    rw [skipIf_mem]
    exact hm
  | ldVxK x =>
    obtain ⟨b, hkey⟩ | hnone := exec_ldVxK_cases x s
    · rw [eq_of_next h hkey]
      exact hm
    · rw [eq_of_next h hnone]
      exact hm
  | _ => cases h; exact hm

/-- The only value an instruction puts into a slot is PC. -/
theorem exec_slots_le {i : Instr} {s t : State} {bound : Nat} (h : exec i s = .next t)
    (hslots : ∀ k : Fin 16, s.stack[k].toNat ≤ bound) (hpc : s.pc.toNat ≤ bound) (k : Fin 16) :
    t.stack[k].toNat ≤ bound := by
  by_cases hi : .stack ∈ i.mayWrite
  · cases i with
    | call nnn =>
      cases h
      have hslot := pushReturn_slot s k
      by_cases hk : k = s.sp + 1
      · exact (congrArg BitVec.toNat (hslot.trans (if_pos hk))).trans_le hpc
      · exact (congrArg BitVec.toNat (hslot.trans (if_neg hk))).trans_le (hslots k)
    | _ => simp [Instr.mayWrite] at hi
  · exact (congrArg BitVec.toNat (exec_sameBut_mayWrite h .stack hi k)).trans_le (hslots k)

theorem targetPlusV0_toNat (nnn : Addr) (s : State) :
    (targetPlusV0 nnn s).toNat = nnn.toNat + (getV s 0).toNat := by
  have hn : nnn.toNat < 2 ^ 12 := nnn.isLt
  have hv : (getV s 0).toNat < 2 ^ 8 := (getV s 0).isLt
  rw [targetPlusV0, BitVec.toNat_add, BitVec.toNat_setWidth_of_le (by decide), BitVec.toNat_setWidth_of_le (by decide)]
  omega

theorem skipIf_pc_le {s : State} (c : Bool) (hpc : s.pc.toNat ≤ 0x1001) : (skipIf c s).pc.toNat ≤ 0x10FE := by
  rw [skipIf_pc]
  split <;> bv_omega

/-- From a PC just past an instruction, the jumps, the return, the skips and the key-wait stay within the bound; the
largest is `JP V0` (R28). -/
theorem exec_pc_le {i : Instr} {s t : State} (h : exec i s = .next t)
    (hslots : ∀ k : Fin 16, s.stack[k].toNat ≤ 0x1001) (hlo : 2 ≤ s.pc.toNat) (hpc : s.pc.toNat ≤ 0x1001) :
    t.pc.toNat ≤ 0x10FE := by
  by_cases hi : .pc ∈ i.mayWrite
  · cases i with
    | jp nnn | call nnn =>
      cases h
      have hn : nnn.toNat < 2 ^ 12 := nnn.isLt
      have htarget : (targetOf nnn).toNat ≤ 0x10FE := by rw [targetOf_toNat]; omega
      exact htarget
    | jpV0 nnn =>
      cases h
      have hn : nnn.toNat < 2 ^ 12 := nnn.isLt
      have hv : (getV s 0).toNat < 2 ^ 8 := (getV s 0).isLt
      have htarget : (targetPlusV0 nnn s).toNat ≤ 0x10FE := by rw [targetPlusV0_toNat]; omega
      exact htarget
    | ret =>
      cases h
      exact (hslots s.sp).trans (by decide)
    | seImm | sneImm | seReg | sneReg | skp | sknp => cases h; exact skipIf_pc_le _ hpc
    | ldVxK x =>
      obtain ⟨b, hkey⟩ | hnone := exec_ldVxK_cases x s
      · rw [eq_of_next h hkey]
        exact hpc.trans (by decide)
      · rw [eq_of_next h hnone, rewindPc_pc]
        bv_omega
    | _ => simp [Instr.mayWrite] at hi
  · exact (congrArg BitVec.toNat (exec_sameBut_mayWrite h .pc hi)).trans_le (hpc.trans (by decide))

/-! ### Over one step -/

/-- A step that fetches gives the instruction a PC just past an address below 0x1000. -/
theorem State.Running.advancePc_pc_bounds {s : State} (h : s.Running) :
    2 ≤ (advancePc s).pc.toNat ∧ (advancePc s).pc.toNat ≤ 0x1001 := by
  have hadvanced := h.advancePc_pc_toNat
  have hlt := h.pc_lt
  omega

theorem step_keeps_inv {s t : State} (hinv : s.Inv) (h : step s = .next t) : t.Inv := by
  obtain ⟨hmem, hslots, hpc⟩ := hinv
  obtain ⟨-, rfl⟩ | ⟨-, -, rfl⟩ | ⟨hh, hs, i, -, hexec⟩ | ⟨hh, hs, e, -, rfl⟩ := step_cases h
  · exact ⟨hmem, hslots, hpc⟩
  · exact ⟨hmem, hslots, hpc⟩
  · obtain ⟨hlo, hle⟩ := State.Running.advancePc_pc_bounds ⟨hh, hs⟩
    exact ⟨exec_mem_wf hexec hmem, exec_slots_le hexec hslots hle, exec_pc_le hexec hslots hlo hle⟩
  · obtain ⟨-, hle⟩ := State.Running.advancePc_pc_bounds ⟨hh, hs⟩
    exact ⟨hmem, hslots, hle.trans (by decide)⟩

/-- Settles O53: a step that fetches leaves PC from 2 to 0x1001 before the instruction, which is what CALL pushes; no
instruction then exceeds a bound. -/
theorem stepKeepsTheInvariant : Obligations.StepKeepsTheInvariant := by
  unfold Obligations.StepKeepsTheInvariant
  exact fun _ _ => step_keeps_inv

/-! ### Over a session -/

/-- What every transaction of the list keeps, the session keeps. -/
theorem runSession_keeps {P : State → Prop} {xs : List Transaction} {s t : State}
    (hkeep : ∀ x ∈ xs, ∀ u v : State, P u → transact x u = .next v → P v) (hs : P s)
    (h : runSession xs s = .next t) : P t := by
  induction xs generalizing s with
  | nil => exact Host.Outcome.next.inj h ▸ hs
  | cons x xs ih =>
    obtain ⟨u, hfirst, hrest⟩ := runSession_cons_next h
    have hu : P u := hkeep x List.mem_cons_self s u hs hfirst
    exact ih (fun y hy => hkeep y (List.mem_cons_of_mem x hy)) hu hrest

/-- After the CPU's reset the invariant is memory's canonical form alone. -/
theorem inv_of_cpuReset {s t : State} (hstack : t.stack = (cpuReset s).stack) (hpc : t.pc = (cpuReset s).pc)
    (hmem : t.mem.wf = true) : t.Inv := by
  refine ⟨hmem, fun k => ?_, ?_⟩
  · simp [hstack]
  · simp [hpc]

/-- Settles O55: memory lists nothing, and the slots and PC are the CPU's reset values. -/
theorem resetHasTheInvariant : Obligations.ResetHasTheInvariant := by
  unfold Obligations.ResetHasTheInvariant
  exact inv_of_cpuReset (s := State.reset) rfl rfl memory_nil_wf

theorem transact_keeps_inv {x : Transaction} {s t : State} (hinv : s.Inv) (h : transact x s = .next t) : t.Inv := by
  cases x with
  | reset => cases h; exact inv_of_cpuReset (s := s) rfl rfl memory_nil_wf
  | load bytes =>
    rw [load_eq_next h]
    exact inv_of_cpuReset (s := memoryReset s) rfl rfl (memWriteBytes_wf memory_nil_wf _ _)
  | step => exact step_keeps_inv hinv h
  | tick =>
    cases h
    obtain ⟨hmem, hslots, hpc⟩ := hinv
    exact ⟨hmem, hslots, hpc⟩
  | setKey k p =>
    obtain ⟨_, rfl⟩ := setKey_eq_next h
    obtain ⟨hmem, hslots, hpc⟩ := hinv
    exact ⟨hmem, hslots, hpc⟩
  | snapshot => cases h; exact hinv

/-- Settles O54: RESET and LOAD set up the invariant, a step keeps it, and the other transactions touch nothing it
speaks of. -/
theorem sessionsKeepTheInvariant : Obligations.SessionsKeepTheInvariant := by
  unfold Obligations.SessionsKeepTheInvariant
  exact fun xs s t hinv => runSession_keeps (fun x _ u v => transact_keeps_inv) hinv

end Sys2Proof.Machine
end

section
/-! A stalled session (spec 60_exceptions R203). -/

namespace Sys2Proof.Machine

theorem sameBut_setKey {k : Nat} {p : Bool} {s t : State} (h : setKey k p s = .next t) : SameBut [.key] s t := by
  obtain ⟨_, rfl⟩ := setKey_eq_next h
  intro c hc
  cases c with
  | key => exact absurd (List.mem_singleton_self _) hc
  | regs | stack | mem => exact fun _ => rfl
  | fb => exact fun _ _ => rfl
  | i | pc | sp | dt | st | halted | draws => exact rfl

theorem transact_of_stalled {x : Transaction} {s t : State} (hstall : 0x1000 ≤ s.pc.toNat)
    (hx : x ≠ .reset ∧ ∀ bytes : List Byte, x ≠ .load bytes) (h : transact x s = .next t) :
    SameBut [.dt, .st, .key] s t := by
  obtain ⟨hreset, hload⟩ := hx
  cases x with
  | reset => exact absurd rfl hreset
  | load bytes => exact absurd rfl (hload bytes)
  | step =>
    rw [← Host.Outcome.next.inj ((step_of_stalled hstall).symm.trans h)]
    exact .refl _ s
  | tick => cases h; exact (sameBut_tick s).mono (by decide)
  | setKey k p => exact (sameBut_setKey h).mono (by decide)
  | snapshot => cases h; exact .refl _ s

/-- Settles O51: PC is among what every transaction but RESET and LOAD leaves alone, so the stall goes on. -/
theorem stalledUntilResetOrLoad : Obligations.StalledUntilResetOrLoad := by
  unfold Obligations.StalledUntilResetOrLoad
  intro xs s t hstall hxs h
  refine runSession_keeps (P := SameBut [.dt, .st, .key] s) (fun x hx u v hu hact => ?_) (.refl _ s) h
  have hpc : u.pc = s.pc := hu .pc (by decide)
  have hnext := transact_of_stalled (hpc ▸ hstall) (hxs x hx) hact
  exact (hu.trans hnext).mono (by decide)

end Sys2Proof.Machine
end

section
/-! A word placed where the next fetch reads (spec 20_memory R55, R67; 40_step_cycle_and_flow R100). -/

namespace Sys2Proof.Machine

/-- The decoder of a table row's bits reads the row's word. -/
theorem decodeWord_of_decodeTableWord {n w : Nat} {i : Instr} (h : decodeTableWord n w = some i) :
    decodeWord (tableWord n w) = .ok i := by
  cases hd : decodeWord (tableWord n w) with
  | ok j =>
    rw [decodeTableWord, tableBytes, decode_wordBytes hd] at h
    exact congrArg Except.ok (Option.some.inj h)
  | error e =>
    rw [decodeTableWord, tableBytes, decode, wordBytes_append, hd] at h
    cases h

theorem withFetchWord_of_running {s : State} (h : s.Running) (n w : Nat) :
    s.withFetchWord n w = placeWord s (tableWord n w) := by
  rw [State.withFetchWord, readyToFetch_of_running h.1 h.2]

theorem memRead_placeWord_outside {s : State} (hm : s.mem.wf = true) (op : Word) {a : Nat}
    (hhigh : a % 4096 ≠ s.pc.toNat % 4096) (hlow : a % 4096 ≠ (s.pc.toNat + 1) % 4096) :
    memRead (placeWord s op).mem a = memRead s.mem a := by
  refine memRead_memWriteBytes_outside hm s.pc.toNat a _ fun k hk => ?_
  match k, hk with
  | 0, _ => exact hhigh
  | 1, _ => exact hlow

/-- Settles O8: the state with the word in place runs, and what it fetches is the word. -/
theorem placedWordIsTheNextInstruction : Obligations.PlacedWordIsTheNextInstruction := by
  unfold Obligations.PlacedWordIsTheNextInstruction
  intro s w i running hm hword
  rw [withFetchWord_of_running running]
  have hfetch : memReadWord (placeWord s (tableWord 16 w)).mem (placeWord s (tableWord 16 w)).pc.toNat =
      tableWord 16 w := fetchWord_placeWord hm _
  have hdec := (congrArg decodeWord hfetch).trans (decodeWord_of_decodeTableWord hword)
  exact ⟨step_of_decodeWord_ok running hdec, sameBut_setMem s _, fun _ => memRead_placeWord_outside hm _⟩

end Sys2Proof.Machine
end

section
/-! The jumps and the return (spec 40_step_cycle_and_flow R103, R104, R106). -/

namespace Sys2Proof.Machine

theorem exec_jp (nnn : Addr) (s : State) : exec (.jp nnn) s = .next (setPc s (targetOf nnn)) := rfl

theorem targetOf_toNat_lt (nnn : Addr) : (targetOf nnn).toNat < 0x1000 := by
  rw [targetOf_toNat]
  exact nnn.isLt

/-- Settles O10: the target is below the stall's boundary; the jump to its own address undoes the fetch advance. -/
theorem jumpSetsPc : Obligations.JumpSetsPc := by
  unfold Obligations.JumpSetsPc
  refine ⟨fun nnn s => ?_, fun nnn s running hdec hself => ?_⟩
  · have not_stalled : stalled (setPc s (targetOf nnn)) = false := (stalled_eq_false _).mpr (targetOf_toNat_lt nnn)
    exact ⟨_, exec_jp nnn s, targetOf_toNat nnn, not_stalled, sameBut_setPc s _⟩
  · have own_address : targetOf nnn = s.pc := BitVec.eq_of_toNat_eq ((targetOf_toNat nnn).trans hself)
    calc step s = .next (setPc (advancePc s) (targetOf nnn)) := step_of_decodeWord_ok running hdec
      _ = .next s := by rw [own_address]; rfl

theorem exec_jpV0 (nnn : Addr) (s : State) : exec (.jpV0 nnn) s = .next (setPc s (targetPlusV0 nnn s)) := rfl

/-- Settles O11: 12 bits plus 8 fit the 16 of PC, and a stalled step changes nothing. -/
theorem jumpV0AddsWithoutMasking : Obligations.JumpV0AddsWithoutMasking := by
  unfold Obligations.JumpV0AddsWithoutMasking
  intro nnn s
  have hsum := targetPlusV0_toNat nnn s
  exact ⟨_, exec_jpV0 nnn s, hsum, sameBut_setPc s _, fun hge => step_of_stalled (hge.trans_eq hsum.symm)⟩

theorem exec_ret (s : State) : exec .ret s = .next (popReturn s) := rfl

theorem popReturn_sp_val (s : State) : (popReturn s).sp.val = (s.sp.val + 15) % 16 := by
  rw [popReturn_sp]
  omega

/-- Settles O13: the next state is one pop, which reads its slot and does not write it. -/
theorem retPopsTheReturnAddress : Obligations.RetPopsTheReturnAddress := by
  unfold Obligations.RetPopsTheReturnAddress
  exact fun s => ⟨_, exec_ret s, rfl, popReturn_sp_val s, sameBut_popReturn s⟩

end Sys2Proof.Machine
end

section
/-! Calls and returns, one after the other (spec 40_step_cycle_and_flow R103, R105; 95_test_vectors S9). -/

namespace Sys2Proof.Machine

theorem popReturn_call_sp (nnn : Addr) (s : State) :
    (popReturn (setPc (pushReturn s) (targetOf nnn))).sp = s.sp := add_sub_cancel_right s.sp 1

/-- Every component but PC, SP and the slots is outside both frames; PC and SP come back. -/
theorem sameBut_popReturn_call (nnn : Addr) (s : State) :
    SameBut [.stack] s (popReturn (setPc (pushReturn s) (targetOf nnn))) := fun c hc => by
  have hboth := (sameBut_call nnn s).trans (sameBut_popReturn _)
  cases c with
  | stack => exact absurd (List.mem_singleton_self _) hc
  | pc => exact pushReturn_top s
  | sp => exact popReturn_call_sp nnn s
  | regs | i | dt | st | halted | mem | key | fb | draws => exact hboth _ (by decide)

/-- Settles O14: the pop reads the slot the push wrote and undoes the pointer's advance. -/
theorem callThenRetResumes : Obligations.CallThenRetResumes := by
  unfold Obligations.CallThenRetResumes
  exact fun nnn s => ⟨_, _, exec_call nnn s, exec_ret _, pushReturn_top s, popReturn_call_sp nnn s,
    sameBut_popReturn_call nnn s⟩

/-- The state a `CALL` of a chain answers: PC at the call (already past it) pushed, PC at the target. -/
def afterCall (c : Word × Addr) (s : State) : State := setPc (pushReturn (setPc s c.1)) (targetOf c.2)

theorem callChain_cons (c : Word × Addr) (cs : List (Word × Addr)) (s : State) :
    callChain (c :: cs) s = callChain cs (afterCall c s) := rfl

@[simp] theorem afterCall_sp (c : Word × Addr) (s : State) : (afterCall c s).sp = s.sp + 1 := rfl

theorem afterCall_top (c : Word × Addr) (s : State) : (afterCall c s).stack[(afterCall c s).sp] = c.1 :=
  pushReturn_top (setPc s c.1)

theorem afterCall_slot_of_ne (c : Word × Addr) (s : State) {k : Reg} (hk : k ≠ s.sp + 1) :
    (afterCall c s).stack[k] = s.stack[k] :=
  pushReturn_slot_of_ne_top (setPc s c.1) hk

/-- A chain of returns is a pop and then a shorter chain. -/
theorem returnChain_succ_eq_some {n : Nat} {s u : State} {ps : List Word} :
    returnChain (n + 1) s = some (ps, u) ↔
      ∃ qs : List Word, returnChain n (popReturn s) = some (qs, u) ∧ ps = (popReturn s).pc :: qs := by
  rw [returnChain, exec_ret]
  cases hrest : returnChain n (popReturn s) with
  | none => simp [hrest]
  | some rest => simp [hrest, Prod.ext_iff, and_comm, eq_comm]

/-- Returns write no slot. -/
theorem returnChain_stack {n : Nat} {s u : State} {ps : List Word} (h : returnChain n s = some (ps, u)) :
    u.stack = s.stack := by
  induction n generalizing s ps with
  | zero =>
    cases h
    rfl
  | succ n ih =>
    obtain ⟨qs, hrest, -⟩ := returnChain_succ_eq_some.mp h
    exact (ih hrest).trans (popReturn_stack s)

/-- One more return after a chain of them. -/
theorem returnChain_concat {n : Nat} {s u : State} {ps : List Word} (h : returnChain n s = some (ps, u)) :
    returnChain (n + 1) s = some (ps ++ [u.stack[u.sp]], popReturn u) := by
  induction n generalizing s ps with
  | zero =>
    cases h
    rfl
  | succ n ih =>
    obtain ⟨qs, hrest, rfl⟩ := returnChain_succ_eq_some.mp h
    exact returnChain_succ_eq_some.mpr ⟨_, ih hrest, rfl⟩

/-- How many pushes from the pointer `sp` it takes, less one, to come to slot `k`. -/
def pushesBefore (sp k : Reg) : Nat := (k - (sp + 1)).val

theorem pushesBefore_self (sp : Reg) : pushesBefore sp sp = 15 := by
  revert sp
  decide

theorem pushesBefore_succ (sp k : Reg) (h : k ≠ sp + 1) : pushesBefore (sp + 1) k + 1 = pushesBefore sp k := by
  revert sp k
  decide

theorem pushesBefore_next (sp : Reg) : pushesBefore sp (sp + 1) = 0 := by
  revert sp
  decide

/-- A chain of calls completes and writes no slot it does not come to. -/
theorem callChain_slots (cs : List (Word × Addr)) (s : State) :
    ∃ t : State, callChain cs s = .next t ∧
      ∀ k : Reg, cs.length ≤ pushesBefore s.sp k → t.stack[k] = s.stack[k] := by
  induction cs generalizing s with
  | nil => exact ⟨s, rfl, fun _ _ => rfl⟩
  | cons c cs ih =>
    obtain ⟨t, hchain, hslots⟩ := ih (afterCall c s)
    refine ⟨t, (callChain_cons c cs s).trans hchain, fun k hk => ?_⟩
    rw [List.length_cons] at hk
    have hne : k ≠ s.sp + 1 := by
      rintro rfl
      rw [pushesBefore_next] at hk
      omega
    have hrest : cs.length ≤ pushesBefore (afterCall c s).sp k := by
      have := pushesBefore_succ s.sp k hne
      rw [afterCall_sp]
      omega
    exact (hslots k hrest).trans (afterCall_slot_of_ne c s hne)

/-- Up to 16 calls and as many returns: the first call's slot is the last one read, and no later call of the chain comes
to it. -/
theorem callChain_returnChain (cs : List (Word × Addr)) (s : State) (hlen : cs.length ≤ 16) :
    ∃ t u : State, callChain cs s = .next t ∧
      returnChain cs.length t = some ((cs.map Prod.fst).reverse, u) ∧ u.sp = s.sp := by
  induction cs generalizing s with
  | nil => exact ⟨s, s, rfl, rfl, rfl⟩
  | cons c cs ih =>
    rw [List.length_cons] at hlen
    obtain ⟨t, u, hchain, hreturn, hsp⟩ := ih (afterCall c s) (by omega)
    obtain ⟨t', hchain', hslots⟩ := callChain_slots cs (afterCall c s)
    obtain rfl : t = t' := Host.Outcome.next.inj (hchain.symm.trans hchain')
    have hkept := hslots (afterCall c s).sp (by rw [pushesBefore_self]; omega)
    have hfirst : u.stack[u.sp] = c.1 := by
      simp only [hsp, returnChain_stack hreturn]
      exact hkept.trans (afterCall_top c s)
    refine ⟨t, popReturn u, (callChain_cons c cs s).trans hchain, ?_, ?_⟩
    · rw [List.length_cons, returnChain_concat hreturn, hfirst, List.map_cons, List.reverse_cons]
    · rw [popReturn_sp, hsp]
      exact add_sub_cancel_right s.sp 1

/-- Settles O15: by induction on the chain, the first call outermost. -/
theorem sixteenNestedCallsReturnInOrder : Obligations.SixteenNestedCallsReturnInOrder := by
  unfold Obligations.SixteenNestedCallsReturnInOrder
  exact callChain_returnChain

end Sys2Proof.Machine
end

section
/-! LD I, nnn, RND and the logical operations: a write without a flag (spec 42_load_immediate_random R122, R123; 43_alu
R131 to R133). -/

namespace Sys2Proof.Machine

theorem exec_ldI (nnn : Addr) (s : State) : exec (.ldI nnn) s = .next (setI s nnn) := rfl

/-- Settles O21: the next state is one write of `I`. -/
theorem loadIndexSetsI : Obligations.LoadIndexSetsI := by
  unfold Obligations.LoadIndexSetsI
  exact fun nnn s => ⟨_, exec_ldI nnn s, setI_i s nnn, sameBut_setI s nnn⟩

theorem getV_randomAnd (draw : Byte) (x : Reg) (kk : Byte) (s : State) :
    getV (randomAnd draw x kk s) x = draw &&& kk := getV_setV_same s x _

theorem sameRegsBut_randomAnd (draw : Byte) (x : Reg) (kk : Byte) (s : State) :
    SameRegsBut [x] s (randomAnd draw x kk s) := sameRegsBut_setV s x _

theorem and_and_not_self (draw kk : Byte) : draw &&& kk &&& ~~~kk = 0 := by
  rw [BitVec.and_assoc, BitVec.and_not_self]
  exact BitVec.and_zero

/-- Settles O22: `randomAnd` is one register write for every draw, and the counter of draws moves on by one. -/
theorem randomMasksAFreshDraw : Obligations.RandomMasksAFreshDraw := by
  unfold Obligations.RandomMasksAFreshDraw
  intro x kk s
  have hdraw := getV_randomAnd (Config.rnd s.draws) x kk (nextDraw s)
  have hmask := (congrArg (· &&& ~~~kk) hdraw).trans (and_and_not_self (Config.rnd s.draws) kk)
  refine ⟨fun draw => ⟨getV_randomAnd draw x kk s, sameRegsBut_randomAnd draw x kk s, sameBut_randomAnd draw x kk s⟩,
    ?_⟩
  exact ⟨_, exec_rnd x kk s, hdraw, hmask, nextDraw_draws s, sameRegsBut_randomAnd _ x kk (nextDraw s),
    sameBut_rnd x kk s⟩

theorem exec_orReg (x y : Reg) (s : State) : exec (.orReg x y) s = .next (setV s x (getV s x ||| getV s y)) := rfl

theorem exec_andReg (x y : Reg) (s : State) : exec (.andReg x y) s = .next (setV s x (getV s x &&& getV s y)) := rfl

theorem exec_xorReg (x y : Reg) (s : State) : exec (.xorReg x y) s = .next (setV s x (getV s x ^^^ getV s y)) := rfl

/-- Settles O24: each of the three is one register write, and a bit of the result is the operation on the two bits. -/
theorem logicalOperationsLeaveVfAlone : Obligations.LogicalOperationsLeaveVfAlone := by
  unfold Obligations.LogicalOperationsLeaveVfAlone
  intro x y s
  refine ⟨?orReg, ?andReg, ?xorReg⟩
  case orReg =>
    refine ⟨_, exec_orReg x y s, fun k _ => ?_, sameRegsBut_setV s x _, sameBut_setV s x _⟩
    rw [getV_setV_same, BitVec.getLsbD_or]
  case andReg =>
    refine ⟨_, exec_andReg x y s, fun k _ => ?_, sameRegsBut_setV s x _, sameBut_setV s x _⟩
    rw [getV_setV_same, BitVec.getLsbD_and]
  case xorReg =>
    refine ⟨_, exec_xorReg x y s, fun k _ => ?_, sameRegsBut_setV s x _, sameBut_setV s x _⟩
    rw [getV_setV_same, BitVec.getLsbD_xor]

end Sys2Proof.Machine
end

section
/-! The instructions that write a result and then VF (spec 10_state R23, R24; 43_alu R128, R134 to R138;
47_index_memory R180). -/

namespace Sys2Proof.Machine

theorem sameRegsBut_setFlag (s : State) (c : Bool) : SameRegsBut [15] s (setFlag s c) := sameRegsBut_setV s 15 _

theorem getV_setFlag_vf (s : State) (c : Bool) : getV (setFlag s c) 15 = flagByte c := getV_setV_same s 15 _

theorem sameRegsBut_setResultAndFlag (s : State) (x : Reg) (b : Byte) (c : Bool) :
    SameRegsBut [x, 15] s (setResultAndFlag s x b c) := fun r hr => by
  obtain ⟨hx, hf⟩ : r ≠ x ∧ r ≠ 15 := by simpa only [List.mem_cons, List.not_mem_nil, or_false, not_or] using hr
  exact getV_setResultAndFlag_ne s b c hf hx

theorem getV_setResultAndFlag_result (s : State) {x : Reg} (b : Byte) (c : Bool) (hx : x ≠ 15) :
    getV (setResultAndFlag s x b c) x = b := by
  rw [getV_setResultAndFlag, if_neg hx, if_pos rfl]

/-- What an instruction that writes a result and a flag answers, the two as numbers. -/
theorem completes_of_setResultAndFlag {i : Instr} {s : State} {x : Reg} {b f : Byte} {c : Bool} {result : Nat}
    (h : exec i s = .next (setResultAndFlag s x b c)) (hb : b.toNat = result) (hc : flagByte c = f) :
    Completes i s fun t => (x ≠ 15 → (getV t x).toNat = result) ∧ getV t 15 = f ∧ SameRegsBut [x, 15] s t ∧
      SameBut [.regs] s t := by
  refine ⟨_, h, fun hx => ?_, ?_, sameRegsBut_setResultAndFlag s x b c, sameBut_setResultAndFlag s x b c⟩
  · rw [getV_setResultAndFlag_result s b c hx, hb]
  · rw [setResultAndFlag, getV_setFlag_vf, hc]

/-! ### The flags as numbers -/

theorem flagByte_decide (p : Prop) [Decidable p] : flagByte (decide p) = if p then 1 else 0 := by
  simp only [flagByte, decide_eq_true_iff]

theorem flagByte_toNat (c : Bool) : (flagByte c).toNat = c.toNat := by cases c <;> rfl

/-- On equal operands the comparison is not strict (decision D10). -/
theorem flagByte_greaterFlag (a b : Byte) :
    flagByte (greaterFlag config.subEqFlag a b) = if a.toNat > b.toNat then 1 else 0 := by
  rw [config_subEqFlag, greaterFlag]
  split
  case isTrue heq => rw [heq, if_neg (lt_irrefl _), flagByte_false]
  case isFalse => exact flagByte_decide _

theorem getLsbD_toNat (a : Byte) (k : Nat) : (a.getLsbD k).toNat = a.toNat / 2 ^ k % 2 := Nat.toNat_testBit a.toNat k

theorem lowBitFlag_toNat (a : Byte) : (flagByte (lowBitFlag a)).toNat = a.toNat % 2 := by
  rw [flagByte_toNat, lowBitFlag, getLsbD_toNat, pow_zero, Nat.div_one]

theorem highBitFlag_toNat (a : Byte) : (flagByte (highBitFlag a)).toNat = a.toNat / 128 := by
  have hlt : a.toNat < 2 ^ 8 := a.isLt
  rw [flagByte_toNat, highBitFlag, getLsbD_toNat]
  omega

/-! ### Group 8 -/

theorem exec_addReg (x y : Reg) (s : State) : exec (.addReg x y) s =
    .next (setResultAndFlag s x (getV s x + getV s y) (carryFlag (getV s x) (getV s y))) := rfl

/-- Settles O25: the sum of two bytes wraps at 256, and the flag is whether it did. -/
theorem addSetsCarry : Obligations.AddSetsCarry := by
  unfold Obligations.AddSetsCarry
  exact fun x y s => completes_of_setResultAndFlag (exec_addReg x y s) (BitVec.toNat_add _ _) (flagByte_decide _)

theorem exec_subReg (x y : Reg) (s : State) : exec (.subReg x y) s =
    .next (setResultAndFlag s x (getV s x - getV s y) (greaterFlag config.subEqFlag (getV s x) (getV s y))) := rfl

theorem exec_subnReg (x y : Reg) (s : State) : exec (.subnReg x y) s =
    .next (setResultAndFlag s x (getV s y - getV s x) (greaterFlag config.subEqFlag (getV s y) (getV s x))) := rfl

theorem byte_sub_toNat (a b : Byte) : (a - b).toNat = (a.toNat + 256 - b.toNat) % 256 := by
  have hlt : b.toNat < 2 ^ 8 := b.isLt
  rw [BitVec.toNat_sub]
  omega

/-- Settles O26: the two subtractions are one with the operands exchanged. -/
theorem subtractionsSetStrictComparison : Obligations.SubtractionsSetStrictComparison := by
  unfold Obligations.SubtractionsSetStrictComparison
  exact fun x y s =>
    ⟨completes_of_setResultAndFlag (exec_subReg x y s) (byte_sub_toNat _ _) (flagByte_greaterFlag _ _),
      completes_of_setResultAndFlag (exec_subnReg x y s) (byte_sub_toNat _ _) (flagByte_greaterFlag _ _)⟩

theorem exec_shr (x y : Reg) (s : State) : exec (.shr x y) s =
    .next (setResultAndFlag s x (getV s x >>> 1) (lowBitFlag (getV s x))) := rfl

theorem exec_shl (x y : Reg) (s : State) : exec (.shl x y) s =
    .next (setResultAndFlag s x (getV s x <<< 1) (highBitFlag (getV s x))) := rfl

theorem byte_shiftRight_toNat (a : Byte) : (a >>> 1).toNat = a.toNat / 2 := by
  rw [BitVec.toNat_ushiftRight, Nat.shiftRight_eq_div_pow, pow_one]

theorem byte_shiftLeft_toNat (a : Byte) : (a <<< 1).toNat = a.toNat * 2 % 256 := by
  rw [BitVec.toNat_shiftLeft, Nat.shiftLeft_eq, pow_one]

/-- Settles O27: the shifted byte and the bit shifted out, for the right shift and the left. -/
theorem shiftsActOnVxInPlace : Obligations.ShiftsActOnVxInPlace := by
  unfold Obligations.ShiftsActOnVxInPlace
  intro x y s
  constructor
  · obtain ⟨t, hexec, hresult, hflag, hframe⟩ :=
      completes_of_setResultAndFlag (exec_shr x y s) (byte_shiftRight_toNat _) rfl
    exact ⟨t, hexec, hresult, (congrArg BitVec.toNat hflag).trans (lowBitFlag_toNat _), hframe⟩
  · obtain ⟨t, hexec, hresult, hflag, hframe⟩ :=
      completes_of_setResultAndFlag (exec_shl x y s) (byte_shiftLeft_toNat _) rfl
    exact ⟨t, hexec, hresult, (congrArg BitVec.toNat hflag).trans (highBitFlag_toNat _), hframe⟩

/-! ### ADD I, Vx -/

theorem indexSum_toNat (s : State) (x : Reg) : (indexSum s x).toNat = (s.i.toNat + (getV s x).toNat) % 4096 := by
  rw [indexSum, BitVec.toNat_add, BitVec.toNat_setWidth_of_le (by decide)]

/-- Settles O39: the sum of `I` and a byte wraps at 4096; the flag, of the unmasked sum, is the last write. -/
theorem addIndexWrapsAndSetsVf : Obligations.AddIndexWrapsAndSetsVf := by
  unfold Obligations.AddIndexWrapsAndSetsVf
  intro x s
  have hflag := (getV_setFlag_vf (setI s (indexSum s x)) (indexCarryFlag s.i (getV s x))).trans (flagByte_decide _)
  exact ⟨_, exec_addI x s, indexSum_toNat s x, hflag, sameRegsBut_setFlag (setI s _) _, sameBut_addI x s⟩

end Sys2Proof.Machine
end

section
/-! Drawing, one covered pixel at a time (spec 44_display R151, R157, R158). -/

namespace Sys2Proof.Machine

/-! ### Distances round the torus -/

/-- How far the coordinate `p` lies beyond `start`, going round. -/
def torusOffset (size start p : Nat) : Nat := (p + size - start % size) % size

theorem torusOffset_eq_iff {size start p d : Nat} (hd : d < size) :
    torusOffset size start p = d ↔ p % size = (start + d) % size := by
  have hstart : start % size < size := Nat.mod_lt start (by omega)
  have hadd : p + size - start % size + start % size = p + size := by omega
  have around : (start % size + (p + size - start % size)) % size = p % size := by
    rw [add_comm, hadd, Nat.add_mod_right]
  constructor
  · rintro rfl
    rw [torusOffset, ← around, Nat.mod_add_mod, Nat.add_mod_mod]
  · intro h
    have hcancel : (start % size + (p + size - start % size)) % size = (start % size + d) % size := by
      rw [around, h, Nat.mod_add_mod]
    calc torusOffset size start p = d % size := Nat.ModEq.add_left_cancel' _ hcancel
      _ = d := Nat.mod_eq_of_lt hd

theorem torusOffset_add {size start d : Nat} (hd : d < size) :
    torusOffset size start ((start + d) % size) = d :=
  (torusOffset_eq_iff hd).mpr (Nat.mod_mod _ _)

/-! ### What a drawing does to the plane and to the collision -/

/-- `after` is `before` with the pixels that `cover` marks exclusive-ored, and with a collision where a lit one was
marked. -/
def Draws (before after : Plane × Bool) (cover : Nat → Nat → Bool) : Prop :=
  (∀ px py : Nat, pixel after.1 px py = (pixel before.1 px py ^^ cover px py)) ∧
  (after.2 = true ↔ before.2 = true ∨
    ∃ px < 64, ∃ py < 32, pixel before.1 px py = true ∧ cover px py = true)

theorem Draws.nothing (acc : Plane × Bool) {cover : Nat → Nat → Bool} (h : ∀ px py, cover px py = false) :
    Draws acc acc cover := by
  refine ⟨fun px py => ?_, ?_⟩
  · rw [h, Bool.xor_false]
  · simp [h]

/-- Two drawings that share no pixel are one drawing. -/
theorem Draws.trans {a b c : Plane × Bool} {cover cover' both : Nat → Nat → Bool} (h : Draws a b cover)
    (h' : Draws b c cover') (hdisjoint : ∀ px py, cover px py = true → cover' px py = false)
    (hboth : ∀ px py, both px py = (cover px py || cover' px py)) : Draws a c both := by
  obtain ⟨hpixel, hhit⟩ := h
  obtain ⟨hpixel', hhit'⟩ := h'
  refine ⟨fun px py => ?_, ?_⟩
  · rw [hpixel', hpixel, hboth]
    cases hc : cover px py with
    | false => rw [Bool.xor_false, Bool.false_or]
    | true => rw [hdisjoint px py hc, Bool.xor_false, Bool.or_false]
  · have marked (px py : Nat) : (pixel b.1 px py = true ∧ cover' px py = true) ↔
        (pixel a.1 px py = true ∧ cover' px py = true) := by
      rw [hpixel]
      cases hc : cover px py with
      | false => rw [Bool.xor_false]
      | true => simp [hdisjoint px py hc]
    simp only [hhit', hhit, marked, hboth, Bool.or_eq_true, and_or_left, exists_or, or_assoc]

/-- The bit `b` plotted at `(x, y)`, on the pixel `(px, py)`. -/
def plotCovers (x y : Nat) (b : Bool) (px py : Nat) : Bool := decide (px % 64 = x % 64 ∧ py % 32 = y % 32) && b

theorem plotCovers_iff {x y px py : Nat} {b : Bool} :
    plotCovers x y b px py = true ↔ (px % 64 = x % 64 ∧ py % 32 = y % 32) ∧ b = true := by
  rw [plotCovers, Bool.and_eq_true, decide_eq_true_iff]

theorem plot_hit_iff (fb : Plane) (x y : Nat) (b : Bool) : (plot fb x y b).2 = true ↔
    ∃ px < 64, ∃ py < 32, pixel fb px py = true ∧ plotCovers x y b px py = true := by
  rw [plot_hit, Bool.and_eq_true]
  constructor
  · rintro ⟨hlit, hb⟩
    refine ⟨x % 64, Nat.mod_lt x (by decide), y % 32, Nat.mod_lt y (by decide), ?_, ?_⟩
    · rwa [pixel_mod]
    · exact plotCovers_iff.mpr ⟨⟨Nat.mod_mod x 64, Nat.mod_mod y 32⟩, hb⟩
  · rintro ⟨px, -, py, -, hlit, hon⟩
    obtain ⟨⟨hx, hy⟩, hb⟩ := plotCovers_iff.mp hon
    exact ⟨pixel_congr_mod fb hx hy ▸ hlit, hb⟩

theorem draws_plot (fb : Plane) (hit b : Bool) (x y : Nat) :
    Draws (fb, hit) ((plot fb x y b).1, hit || (plot fb x y b).2) (plotCovers x y b) := by
  refine ⟨fun px py => ?_, ?_⟩
  · rw [pixel_plot, plotCovers]
    split
    case isTrue hat => rw [decide_eq_true hat, Bool.true_and, pixel_congr_mod fb hat.1 hat.2]
    case isFalse hat => rw [decide_eq_false hat, Bool.false_and, Bool.xor_false]
  · rw [Bool.or_eq_true, plot_hit_iff]

/-! ### A row, and a sprite -/

/-- The first `k` bits of a sprite row at `(x0, y)`, on the pixel `(px, py)`. -/
def rowCovers (row : Byte) (x0 y k px py : Nat) : Bool :=
  decide (py % 32 = y % 32) && decide (torusOffset 64 x0 px < k) && row.getLsbD (7 - torusOffset 64 x0 px)

theorem rowCovers_iff {row : Byte} {x0 y k px py : Nat} : rowCovers row x0 y k px py = true ↔
    py % 32 = y % 32 ∧ torusOffset 64 x0 px < k ∧ row.getLsbD (7 - torusOffset 64 x0 px) = true := by
  simp only [rowCovers, Bool.and_eq_true, decide_eq_true_iff, and_assoc]

theorem draws_plotRow (row : Byte) (x0 y : Nat) {k : Nat} (hk : k ≤ 64) (acc : Plane × Bool) :
    Draws acc (plotRow row x0 y k acc) (rowCovers row x0 y k) := by
  induction k with
  | zero => exact .nothing acc fun px py => by simp [rowCovers]
  | succ k ih =>
    have hk64 : k < 64 := hk
    have at_column (px : Nat) : torusOffset 64 x0 px = k ↔ px % 64 = (x0 + k) % 64 := torusOffset_eq_iff hk64
    rw [plotRow_succ]
    refine (ih hk64.le).trans (draws_plot _ _ _ _ _) (fun px py hon => ?_) (fun px py => ?_)
    · have hne : ¬ px % 64 = (x0 + k) % 64 := by
        rw [← at_column]
        obtain ⟨-, before_k, -⟩ := rowCovers_iff.mp hon
        exact before_k.ne
      simp [plotCovers, hne]
    · rw [Bool.eq_iff_iff, Bool.or_eq_true, rowCovers_iff, rowCovers_iff, plotCovers_iff, ← at_column,
        Nat.lt_succ_iff_lt_or_eq]
      constructor
      · rintro ⟨hrow, hlt | rfl, hbit⟩
        · exact .inl ⟨hrow, hlt, hbit⟩
        · exact .inr ⟨⟨rfl, hrow⟩, hbit⟩
      · rintro (⟨hrow, hlt, hbit⟩ | ⟨⟨rfl, hrow⟩, hbit⟩)
        · exact ⟨hrow, .inl hlt, hbit⟩
        · exact ⟨hrow, .inr rfl, hbit⟩

theorem spriteCovers_iff {m : Memory} {base x0 y0 n px py : Nat} : spriteCovers m base x0 y0 n px py = true ↔
    torusOffset 32 y0 py < n ∧ torusOffset 64 x0 px < 8 ∧
      spriteBit m base (torusOffset 32 y0 py) (torusOffset 64 x0 px) = true := by
  simp only [spriteCovers, Bool.and_eq_true, decide_eq_true_iff, and_assoc]
  rfl

theorem draws_drawRows (m : Memory) (base x0 y0 : Nat) {n : Nat} (hn : n ≤ 32) (acc : Plane × Bool) :
    Draws acc (drawRows m base x0 y0 n acc) (spriteCovers m base x0 y0 n) := by
  induction n with
  | zero => exact .nothing acc fun px py => by simp [spriteCovers]
  | succ n ih =>
    have hn32 : n < 32 := hn
    have at_row (py : Nat) : torusOffset 32 y0 py = n ↔ py % 32 = (y0 + n) % 32 := torusOffset_eq_iff hn32
    rw [drawRows_succ]
    refine (ih hn32.le).trans (draws_plotRow _ x0 (y0 + n) (by decide) _) (fun px py hon => ?_) (fun px py => ?_)
    · have hne : ¬ py % 32 = (y0 + n) % 32 := by
        rw [← at_row]
        obtain ⟨before_n, -⟩ := spriteCovers_iff.mp hon
        exact before_n.ne
      simp [rowCovers, hne]
    · rw [Bool.eq_iff_iff, Bool.or_eq_true, spriteCovers_iff, spriteCovers_iff, rowCovers_iff, ← at_row,
        Nat.lt_succ_iff_lt_or_eq]
      constructor
      · rintro ⟨hlt | rfl, hcol, hbit⟩
        · exact .inl ⟨hlt, hcol, hbit⟩
        · exact .inr ⟨rfl, hcol, hbit⟩
      · rintro (⟨hlt, hcol, hbit⟩ | ⟨rfl, hcol, hbit⟩)
        · exact ⟨.inl hlt, hcol, hbit⟩
        · exact ⟨.inr rfl, hcol, hbit⟩

/-- The sprite somewhere covers a pixel exactly when it has a lit bit. -/
theorem exists_spriteCovers_iff (m : Memory) (base x0 y0 : Nat) {n : Nat} (hn : n ≤ 32) :
    (∃ px < 64, ∃ py < 32, spriteCovers m base x0 y0 n px py = true) ↔
      ∃ i < n, ∃ j < 8, spriteBit m base i j = true := by
  constructor
  · rintro ⟨px, -, py, -, hon⟩
    obtain ⟨hrow, hcol, hbit⟩ := spriteCovers_iff.mp hon
    exact ⟨_, hrow, _, hcol, hbit⟩
  · rintro ⟨i, hi, j, hj, hbit⟩
    refine ⟨(x0 + j) % 64, Nat.mod_lt _ (by decide), (y0 + i) % 32, Nat.mod_lt _ (by decide), ?_⟩
    rw [spriteCovers_iff, torusOffset_add (hi.trans_le hn), torusOffset_add (hj.trans (by decide))]
    exact ⟨hi, hj, hbit⟩

end Sys2Proof.Machine
end

section
/-! DRW, once and twice (spec 44_display R154, R157, R158). -/

namespace Sys2Proof.Machine

/-- The pixels the sprite of a `DRW` covers. -/
def drwCovers (x y : Reg) (n : Nibble) (s : State) (px py : Nat) : Bool :=
  spriteCovers s.mem (effAddr s 0) (getV s x).toNat (getV s y).toNat n.toNat px py

theorem draws_drawSprite (x y : Reg) (n : Nibble) (s : State) :
    Draws (s.fb, false) (drawSprite x y n s) (drwCovers x y n s) :=
  draws_drawRows s.mem _ _ _ (n.isLt.le.trans (by decide)) _

theorem flagByte_eq_one_iff {c : Bool} : flagByte c = 1 ↔ c = true := by cases c <;> decide

theorem exec_drw_spec (x y : Reg) (n : Nibble) (s : State) :
    Completes (.drw x y n) s fun t =>
      (∀ px py : Nat, pixel t.fb px py = (pixel s.fb px py ^^ drwCovers x y n s px py)) ∧
      (getV t 15 = 1 ↔ ∃ px < 64, ∃ py < 32, pixel s.fb px py = true ∧ drwCovers x y n s px py = true) ∧
      (getV t 15 = 0 ∨ getV t 15 = 1) ∧ SameRegsBut [15] s t ∧ SameBut [.regs, .fb] s t := by
  obtain ⟨hpixel, hhit⟩ := draws_drawSprite x y n s
  have hvf := getV_setFlag_vf (setFb s (drawSprite x y n s).1) (drawSprite x y n s).2
  refine ⟨_, exec_drw x y n s, hpixel, ?_, ?_, sameRegsBut_setFlag (setFb s _) _, sameBut_drw x y n s⟩
  · rw [hvf, flagByte_eq_one_iff, hhit]
    simp
  · rw [hvf]
    exact flagByte_cases _

/-- Settles O30: the rows of the sprite one after the other, and the bits of a row, each on pixels of its own. -/
theorem drawXorsTheSpriteOnTheTorus : Obligations.DrawXorsTheSpriteOnTheTorus := by
  unfold Obligations.DrawXorsTheSpriteOnTheTorus
  intro x y n s
  obtain ⟨t, hexec, hpixel, hrest⟩ := exec_drw_spec x y n s
  exact ⟨t, hexec, fun px _ py _ => hpixel px py, hrest⟩

theorem drwCovers_congr {s t : State} {x y : Reg} (n : Nibble) (hx : getV t x = getV s x) (hy : getV t y = getV s y)
    (h : SameBut [.regs, .fb] s t) (px py : Nat) : drwCovers x y n t px py = drwCovers x y n s px py := by
  have hi : t.i = s.i := h .i (by decide)
  have hm : ∀ a : Nat, memRead t.mem a = memRead s.mem a := h .mem (by decide)
  simp only [drwCovers, spriteCovers, spriteBit, effAddr, hx, hy, hi, hm]

/-- Settles O31: the second draw covers the pixels of the first, whose exclusive-or it undoes. -/
theorem drawingTwiceRestoresThePlane : Obligations.DrawingTwiceRestoresThePlane := by
  unfold Obligations.DrawingTwiceRestoresThePlane
  intro x y n s hx hy
  obtain ⟨t, hexec, hpixel, hvf, hbit, hregs, hframe⟩ := exec_drw_spec x y n s
  obtain ⟨u, hexec', hpixel', hvf', -, -, -⟩ := exec_drw_spec x y n t
  have same_cover := drwCovers_congr n (hregs x (by simpa using hx)) (hregs y (by simpa using hy)) hframe
  refine ⟨t, u, hexec, hexec', plane_ext fun px py => ?_, fun hclear => ⟨?_, ?_⟩⟩
  · rw [hpixel', hpixel, same_cover, Bool.xor_assoc, Bool.xor_self, Bool.xor_false]
  · refine hbit.resolve_right fun hone => ?_
    obtain ⟨px, -, py, -, hlit, -⟩ := hvf.mp hone
    exact absurd (hlit.symm.trans (hclear px py)) (by decide)
  · rw [hvf', ← exists_spriteCovers_iff s.mem _ (getV s x).toNat (getV s y).toNat (n.isLt.le.trans (by decide))]
    simp only [hpixel, same_cover, hclear, Bool.false_xor, and_self]
    rfl

end Sys2Proof.Machine
end

section
/-! The key-wait (spec 45_keypad R166, R167; 95_test_vectors S8). -/

namespace Sys2Proof.Machine

/-- Keys 0 to 14, by their bits in the keypad register. -/
theorem firstKey_eq_none_of_up {s : State} (h : ∀ k : Fin 16, k.val ≤ 14 → s.key[k] = false) :
    firstKey s = none :=
  firstKey_eq_none.mpr fun k hk =>
    (keyAt_of_lt s (Nat.lt_succ_of_lt hk)).trans (h ⟨k, Nat.lt_succ_of_lt hk⟩ (Nat.le_of_lt_succ hk))

theorem firstKey_eq_some_of_lowest {s : State} {k : Fin 16} (hk : k.val ≤ 14) (hdown : s.key[k] = true)
    (hup : ∀ j : Fin 16, j < k → s.key[j] = false) : firstKey s = some k.val :=
  firstKey_eq_some.mpr ⟨Nat.lt_succ_of_le hk, (keyAt_val s k).trans hdown, fun j hj =>
    (keyAt_val s ⟨j, hj.trans k.isLt⟩).trans (hup ⟨j, hj.trans k.isLt⟩ hj)⟩

/-- A key's number fits a byte. -/
theorem keyNumber_toNat {k : Nat} (hk : k ≤ 14) : (BitVec.ofNat 8 k).toNat = k :=
  (BitVec.toNat_ofNat k 8).trans (Nat.mod_eq_of_lt (by omega))

/-- Settles O33: the scan's two results, each with the update it leads to. -/
theorem keyWaitTakesTheLowestKey : Obligations.KeyWaitTakesTheLowestKey := by
  unfold Obligations.KeyWaitTakesTheLowestKey
  refine fun x s => ⟨fun k hk hdown hup => ?_, fun hup => exec_ldVxK_of_none (firstKey_eq_none_of_up hup) x⟩
  have hnumber := (congrArg BitVec.toNat (getV_setV_same s x (BitVec.ofNat 8 k.val))).trans (keyNumber_toNat hk)
  exact ⟨_, exec_ldVxK_of_some (firstKey_eq_some_of_lowest hk hdown hup) x, hnumber, sameRegsBut_setV s x _,
    sameBut_setV s x _⟩

/-- A step of a key-wait with no key down goes nowhere: the rewind undoes the fetch advance. -/
theorem step_keyWait_of_up {s : State} {x : Reg} (running : s.Running)
    (hdec : decodeWord (memReadWord s.mem s.pc.toNat) = .ok (.ldVxK x))
    (hup : ∀ k : Fin 16, k.val ≤ 14 → s.key[k] = false) : step s = .next s := by
  calc step s = exec (.ldVxK x) (advancePc s) := step_of_decodeWord_ok running hdec
    _ = .next (rewindPc (advancePc s)) := exec_ldVxK_of_none (firstKey_eq_none_of_up (s := advancePc s) hup) x
    _ = .next s := by rw [rewindPc_advancePc]

/-- A transaction that changes nothing changes nothing any number of times. -/
theorem runSession_replicate_fixed {x : Transaction} {s : State} (h : transact x s = .next s) (n : Nat) :
    runSession (List.replicate n x) s = .next s := by
  induction n with
  | zero => rfl
  | succ n ih => rw [List.replicate_succ, runSession_cons _ h, ih]

/-- Settles O34: one step answers the same state, so any number does. -/
theorem keyWaitSpinsUnchanged : Obligations.KeyWaitSpinsUnchanged := by
  unfold Obligations.KeyWaitSpinsUnchanged
  intro x s n running hdec hup
  have fixed : transact .step s = .next s := step_keyWait_of_up running hdec hup
  exact runSession_replicate_fixed fixed n

/-- The state after `SETKEY(k, 1)`. -/
def pressKey (s : State) (k : Fin 16) : State := { s with key := s.key.set k.val true }

theorem transact_setKey_press (s : State) (k : Fin 16) : transact (.setKey k.val true) s = .next (pressKey s k) :=
  setKey_of_lt k.isLt true s

theorem pressKey_key_self (s : State) (k : Fin 16) : (pressKey s k).key[k] = true := Vector.getElem_set_self k.isLt

theorem pressKey_key_ne (s : State) {k j : Fin 16} (h : k ≠ j) : (pressKey s k).key[j] = s.key[j] :=
  Vector.getElem_set_ne k.isLt j.isLt (Fin.val_ne_of_ne h)

/-- The key just pressed is the only one of 0 to 14 that is down. -/
theorem firstKey_pressKey {s : State} {k : Fin 16} (hk : k.val ≤ 14)
    (hup : ∀ j : Fin 16, j.val ≤ 14 → s.key[j] = false) : firstKey (pressKey s k) = some k.val := by
  refine firstKey_eq_some_of_lowest hk (pressKey_key_self s k) fun j hj => ?_
  have hj14 : j.val ≤ 14 := (Nat.le_of_lt hj).trans hk
  exact (pressKey_key_ne s hj.ne').trans (hup j hj14)

theorem step_keyWait_pressKey {s : State} {x : Reg} {k : Fin 16} (running : s.Running)
    (hdec : decodeWord (memReadWord s.mem s.pc.toNat) = .ok (.ldVxK x)) (hk : k.val ≤ 14)
    (hup : ∀ j : Fin 16, j.val ≤ 14 → s.key[j] = false) :
    step (pressKey s k) = .next (setV (advancePc (pressKey s k)) x (BitVec.ofNat 8 k.val)) := by
  have hstep : step (pressKey s k) = exec (.ldVxK x) (advancePc (pressKey s k)) := step_of_decodeWord_ok running hdec
  have hscan : firstKey (advancePc (pressKey s k)) = some k.val := firstKey_pressKey (s := advancePc s) hk hup
  rw [hstep, exec_ldVxK_of_some hscan]

theorem sameBut_keyWait_pressKey (s : State) (k : Fin 16) (x : Reg) (b : Byte) :
    SameBut [.regs, .pc, .key] s (setV (advancePc (pressKey s k)) x b) := by
  have hpress : SameBut [.key] s (pressKey s k) := sameBut_setKey (transact_setKey_press s k)
  have hadvance : SameBut [.pc] (pressKey s k) (advancePc (pressKey s k)) := sameBut_setPc _ _
  exact ((hpress.trans hadvance).trans (sameBut_setV _ x b)).mono (by decide)

/-- Settles O35: SETKEY keeps PC and memory, so the step fetches the key-wait again, and its scan finds the key. -/
theorem keyWaitEndsWithAPress : Obligations.KeyWaitEndsWithAPress := by
  unfold Obligations.KeyWaitEndsWithAPress
  intro x s k hk running hdec hup
  obtain ⟨key, rfl⟩ : ∃ key : Fin 16, key.val = k := ⟨⟨k, by omega⟩, rfl⟩
  have hpress := transact_setKey_press s key
  have hstep := step_keyWait_pressKey running hdec hk hup
  have hsession := (runSession_cons [.step] hpress).trans (runSession_cons [] hstep)
  have hnumber := (congrArg BitVec.toNat (getV_setV_same (advancePc (pressKey s key)) x _)).trans (keyNumber_toNat hk)
  exact ⟨_, hsession, hnumber, rfl, sameRegsBut_setV (advancePc (pressKey s key)) x _,
    sameBut_keyWait_pressKey s key x _⟩

end Sys2Proof.Machine
end

section
/-! Many ticks (spec 46_timers R170; 95_test_vectors S10). -/

namespace Sys2Proof.Machine

/-- Settles O38: by induction on the number of ticks, each taking one from a timer that is not 0. -/
theorem manyTicksFloorAtZero : Obligations.ManyTicksFloorAtZero := by
  unfold Obligations.ManyTicksFloorAtZero
  intro n
  induction n with
  | zero => exact fun s => ⟨s, rfl, rfl, rfl, .refl _ s⟩
  | succ n ih =>
    intro s
    obtain ⟨t, hrun, hdt, hst, hframe⟩ := ih (tick s)
    have hticks : runSession (List.replicate (n + 1) .tick) s = .next t := by
      rw [List.replicate_succ, runSession_cons _ (transact_tick s), hrun]
    rw [tick_dt, countDown_toNat, Nat.sub_sub, Nat.add_comm] at hdt
    rw [tick_st, countDown_toNat, Nat.sub_sub, Nat.add_comm] at hst
    exact ⟨t, hticks, hdt, hst, ((sameBut_tick s).trans hframe).mono (by decide)⟩

end Sys2Proof.Machine
end

section
/-! The register dump and load (spec 47_index_memory R183 to R186). -/

namespace Sys2Proof.Machine

theorem exec_storeRegs (x : Reg) (s : State) :
    exec (.storeRegs x) s = .next (setMem s (memWriteBytes s.mem (effAddr s 0) (regsUpTo s x))) := rfl

theorem exec_loadRegs (x : Reg) (s : State) :
    exec (.loadRegs x) s = .next (setRegs s (loadRegsFrom s.mem (effAddr s 0) (x.val + 1) s.v)) := rfl

theorem regsUpTo_getElem? (s : State) {x r : Reg} (hr : r ≤ x) : (regsUpTo s x)[r.val]? = some (getV s r) := by
  have hlt : r.val < (regsUpTo s x).length := (regsUpTo_length s x).symm ▸ Nat.lt_succ_of_le hr
  rw [List.getElem?_eq_getElem hlt, regsUpTo_getElem]

/-- The dump never wraps onto itself: at most 16 bytes. -/
theorem regsUpTo_length_le (s : State) (x : Reg) : (regsUpTo s x).length ≤ memSize := by
  have hx : x.val < 16 := x.isLt
  rw [regsUpTo_length, memSize]
  omega

theorem memRead_dump {s : State} (h : s.mem.wf = true) {x r : Reg} (hr : r ≤ x) :
    memRead (memWriteBytes s.mem (effAddr s 0) (regsUpTo s x)) (effAddr s r.val) = getV s r :=
  memRead_memWriteBytes_effAddr h (regsUpTo_length_le s x) (regsUpTo_getElem? s hr)

theorem memRead_dump_outside {s : State} (h : s.mem.wf = true) {x : Reg} {a : Nat}
    (hout : ∀ k ≤ x.val, a % 4096 ≠ effAddr s k % 4096) :
    memRead (memWriteBytes s.mem (effAddr s 0) (regsUpTo s x)) a = memRead s.mem a := by
  refine memRead_memWriteBytes_outside h _ a _ fun k hk => ?_
  rw [regsUpTo_length] at hk
  exact hout k (Nat.le_of_lt_succ hk)

/-- Settles O42: byte `r` of the dump is read back at its own address, and no other address is written. -/
theorem dumpStoresRegistersFromI : Obligations.DumpStoresRegistersFromI := by
  unfold Obligations.DumpStoresRegistersFromI
  exact fun x s hm => ⟨_, exec_storeRegs x s, fun _ => memRead_dump hm, fun _ => memRead_dump_outside hm,
    sameBut_setMem s _⟩

theorem getV_load_of_le (s : State) {x r : Reg} (hr : r ≤ x) :
    getV (setRegs s (loadRegsFrom s.mem (effAddr s 0) (x.val + 1) s.v)) r = memRead s.mem (effAddr s r.val) :=
  (getV_loadRegs s s.mem (effAddr s 0) (x.val + 1) r config).trans (if_pos (Nat.lt_succ_of_le hr))

theorem getV_load_of_gt (s : State) {x r : Reg} (hr : x < r) :
    getV (setRegs s (loadRegsFrom s.mem (effAddr s 0) (x.val + 1) s.v)) r = getV s r :=
  (getV_loadRegs s s.mem (effAddr s 0) (x.val + 1) r config).trans (if_neg (Nat.not_lt_of_le hr))

/-- Settles O43: the next state is one replacement of the register file, read register by register. -/
theorem loadFillsRegistersFromI : Obligations.LoadFillsRegistersFromI := by
  unfold Obligations.LoadFillsRegistersFromI
  exact fun x s => ⟨_, exec_loadRegs x s, fun _ => getV_load_of_le s, fun _ => getV_load_of_gt s, sameBut_setRegs s _⟩

/-- A register file in which every register reads as in the state is the state's own. -/
theorem setRegs_eq_self {s : State} {v : Vector Byte 16} (h : ∀ r : Reg, getV (setRegs s v) r = getV s r) :
    setRegs s v = s := by
  have hv : v = s.v := Vector.ext fun k hk => h ⟨k, hk⟩
  rw [hv]
  rfl

/-- Settles O44: a register in the range is loaded from the byte it was stored to, and the others are not loaded. -/
theorem loadAfterDumpChangesNothing : Obligations.LoadAfterDumpChangesNothing := by
  unfold Obligations.LoadAfterDumpChangesNothing
  intro x s hm
  refine ⟨_, exec_storeRegs x s, (exec_loadRegs x _).trans (congrArg _ (setRegs_eq_self fun r => ?_))⟩
  obtain hr | hr := le_or_gt r x
  · exact (getV_load_of_le _ hr).trans (memRead_dump hm hr)
  · exact getV_load_of_gt _ hr

end Sys2Proof.Machine
end

section
/-! The reset values, RESET, LOAD and SETKEY (spec 10_state section 10; 20_memory R62; 45_keypad R161;
70_reset_and_hazards R230 to R234). -/

namespace Sys2Proof.Machine

/-! ### What the CPU's reset gives -/

theorem getV_of_resetV {s : State} (h : s.v = config.resetV) (r : Reg) : getV s r = 0 := by
  rw [getV, h, config_resetV, Vector.getElem_replicate]

theorem slot_of_resetStack {s : State} (h : s.stack = config.resetStack) (k : Fin 16) : s.stack[k] = 0 := by
  rw [h, config_resetStack, Fin.getElem_fin, Vector.getElem_replicate]

theorem memRead_nil_font {a : Nat} (ha : a < 80) : fontGlyphs.flatten[a]? = some (memRead [] a) := by
  have hsmall : a % memSize = a := Nat.mod_eq_of_lt (by rw [memSize]; omega)
  rw [memRead_nil, hsmall, unlisted, dif_pos ha, ← config_font, Vector.getElem?_toList, Vector.getElem?_eq_getElem ha]

theorem memRead_nil_above {a : Nat} (ha : a < 4096) (hfont : 80 ≤ a) : memRead [] a = 0 := by
  have hsmall : a % memSize = a := Nat.mod_eq_of_lt ha
  rw [memRead_nil, hsmall, unlisted, dif_neg (Nat.not_lt.mpr hfont)]

/-- Settles O57: the configuration's values, and memory that lists no byte. -/
theorem resetGivesTheDecidedValues : Obligations.ResetGivesTheDecidedValues := by
  unfold Obligations.ResetGivesTheDecidedValues
  exact ⟨getV_of_resetV State.reset_v, State.reset_i, State.reset_sp, slot_of_resetStack State.reset_stack,
    State.reset_dt, State.reset_st, fun _ => memRead_nil_font, fun _ => memRead_nil_above⟩

/-- Settles O58: under the spec's defaults, what RESET gives under every setting. -/
theorem resetTransactionRestoresEverything : Obligations.ResetTransactionRestoresEverything := by
  unfold Obligations.ResetTransactionRestoresEverything
  intro s
  rw [← transactWith_config]
  exact transactWith_reset config s

/-! ### LOAD -/

theorem memRead_image {bytes : List Byte} (hlen : bytes.length ≤ loadMax) {k : Nat} (hk : k < bytes.length) :
    bytes[k]? = some (memRead (memWriteBytes [] programOrigin bytes) (programOrigin + k)) := by
  have fits : bytes.length ≤ memSize := hlen.trans (by decide)
  rw [memRead_memWriteBytes_inside memory_nil_wf programOrigin k bytes hk fits, List.getElem?_eq_getElem hk]

/-- An image of at most 3584 bytes ends with memory and does not wrap. -/
theorem memRead_image_outside {bytes : List Byte} (hlen : bytes.length ≤ loadMax) {a : Nat} (ha : a < 4096)
    (hout : a < programOrigin ∨ programOrigin + bytes.length ≤ a) :
    memRead (memWriteBytes [] programOrigin bytes) a = memRead [] a := by
  refine memRead_memWriteBytes_outside memory_nil_wf programOrigin a bytes fun k hk => ?_
  simp only [memSize, programOrigin, loadMax] at *
  omega

/-- Settles O59: the image in memory that lists no other byte, beside the CPU's reset values. -/
theorem loadPlacesTheProgram : Obligations.LoadPlacesTheProgram := by
  unfold Obligations.LoadPlacesTheProgram
  refine fun bytes s => ⟨fun hlen => ?_, fun hlong => load_of_gt hlong s⟩
  exact ⟨_, load_of_le hlen s, fun _ => memRead_image hlen, fun _ => memRead_image_outside hlen, rfl, rfl,
    getV_of_resetV rfl, rfl, rfl, slot_of_resetStack rfl, rfl, rfl, rfl, rfl⟩

/-! ### SETKEY -/

theorem keyAt_setKey {k : Nat} (hk : k < 16) (p : Bool) (s : State) (j : Nat) :
    keyAt { s with key := s.key.set k p } j = if j = k then p else keyAt s j := by
  obtain hj | hj := Nat.lt_or_ge j 16
  · rw [keyAt_of_lt _ hj, keyAt_of_lt s hj, Vector.getElem_set]
    simp only [eq_comm]
  · have hne : j ≠ k := by omega
    rw [keyAt_of_ge _ hj, keyAt_of_ge s hj, if_neg hne]

/-- Settles O60: the write of one key of the register, and the refusal of an index it has not. -/
theorem setKeyWritesOneKey : Obligations.SetKeyWritesOneKey := by
  unfold Obligations.SetKeyWritesOneKey
  refine fun k p s => ⟨fun hk => ?_, fun hk => setKey_of_ge hk p s⟩
  have hself := (keyAt_setKey hk p s k).trans (if_pos rfl)
  have hother (j : Nat) (hj : j ≠ k) := (keyAt_setKey hk p s j).trans (if_neg hj)
  exact ⟨_, setKey_of_lt hk p s, hself, hother, sameBut_setKey (setKey_of_lt hk p s)⟩

end Sys2Proof.Machine
end
